-- ==== Sys2Proof/Word.lean ====
section
/-! DEFINITION. The machine's words: bytes, 16-bit words, 12-bit addresses of an encoding, register names
(spec/00_scope.md R2, spec/10_state.md R10). -/

namespace Sys2Proof

/-- A memory byte, a general register, a timer: 8 bits (R2, R10, R24). -/
abbrev Byte := BitVec 8

/-- An instruction word, `I`, `PC`, a stack slot: 16 bits (R2, R14, R15, R17). -/
abbrev Word := BitVec 16

/-- The field `nnn` of an instruction word: 12 bits (R61). -/
abbrev Addr12 := BitVec 12

/-- The name of a general register, `V0` to `VF` (R10). -/
abbrev Reg := Fin 16

/-- `VF`, the register that doubles as the flag output (R12). -/
def vf : Reg := 15

/-- A one-bit output as the byte a register receives: 1 or 0. -/
def bitByte (b : Bool) : Byte := if b then 1#8 else 0#8

end Sys2Proof
end

