-- ==== Sys2Proof/Config.lean ====
section
/-! DEFINITION. What is fixed for the machine (spec/00_scope.md R2, R3) and the values the spec leaves open,
each an opaque constant without a body. -/

namespace Sys2Proof.Config

/-- Bytes of memory, 0x000 to 0xFFF (R2, R24). -/
@[simp] abbrev memSize : Nat := 4096
/-- The highest memory address (R40). -/
@[simp] abbrev memTop : Nat := 0xFFF
/-- Entries of the call stack (R2, R17). -/
@[simp] abbrev stackDepth : Nat := 16
/-- Where a program is loaded and execution starts (R2, R27). -/
@[simp] abbrev progBase : Nat := 0x200
/-- The largest loadable program, in bytes (R2, R52). -/
@[simp] abbrev maxProg : Nat := 0xE00
/-- Bytes of one glyph of the font (R2, R45). -/
@[simp] abbrev glyphBytes : Nat := 5
/-- Bytes of the font table (R2, R45). -/
@[simp] abbrev fontBytes : Nat := 80

/-- A font table: a value of the parameter `FONT` (R3). -/
abbrev Font : Type := Vector Byte 80

/-- The bytes of the default font: the table of spec/20_memory.md R45, digits 0 to F, five rows each.
PRESUMED (the spec supplies it from general knowledge): log entry 6. -/
def fontDefaultBytes : List Byte :=
  [0xF0#8, 0x90#8, 0x90#8, 0x90#8, 0xF0#8,  0x20#8, 0x60#8, 0x20#8, 0x20#8, 0x70#8,
   0xF0#8, 0x10#8, 0xF0#8, 0x80#8, 0xF0#8,  0xF0#8, 0x10#8, 0xF0#8, 0x10#8, 0xF0#8] ++
  [0x90#8, 0x90#8, 0xF0#8, 0x10#8, 0x10#8,  0xF0#8, 0x80#8, 0xF0#8, 0x10#8, 0xF0#8,
   0xF0#8, 0x80#8, 0xF0#8, 0x90#8, 0xF0#8,  0xF0#8, 0x10#8, 0x20#8, 0x40#8, 0x40#8] ++
  [0xF0#8, 0x90#8, 0xF0#8, 0x90#8, 0xF0#8,  0xF0#8, 0x90#8, 0xF0#8, 0x10#8, 0xF0#8,
   0xF0#8, 0x90#8, 0xF0#8, 0x90#8, 0x90#8,  0xE0#8, 0x90#8, 0xE0#8, 0x90#8, 0xE0#8] ++
  [0xF0#8, 0x80#8, 0x80#8, 0x80#8, 0xF0#8,  0xE0#8, 0x90#8, 0x90#8, 0x90#8, 0xE0#8,
   0xF0#8, 0x80#8, 0xF0#8, 0x80#8, 0xF0#8,  0xF0#8, 0x80#8, 0xF0#8, 0x80#8, 0x80#8]

/-- The parameter `FONT` at its default (R3, R45); log entry 6. -/
def fontDefault : Font := ⟨⟨fontDefaultBytes⟩, rfl⟩

/-- The parameter `SHIFT_USES_VY` at its default (R3); log entry 5. -/
def shiftUsesVyDefault : Bool := false

/-- One less than the parameter `TICK_INTERVAL`, which R3 leaves OPEN: no value is chosen. Log entry 4. -/
opaque tickIntervalLessOne : Nat

/-- The parameter `TICK_INTERVAL`, a positive natural number (R3); log entry 4. -/
def tickInterval : Nat := tickIntervalLessOne + 1

/-- The `elapsed_time` of the k-th cycle whose time the state does not list: a free value (R187); log entry 2. -/
opaque freeElapsed : Nat → Nat

/-- The byte of the k-th random draw that the state does not list: a free value (R131); log entry 3. -/
opaque freeRnd : Nat → Byte

end Sys2Proof.Config
end

