-- ==== Sys2Proof/Machine/State.lean ====
section
/-! DEFINITION. The state of the core as plain data (spec/10_state.md, "The complete state is the tuple
(MEM, V, I, PC, STK, SP, FB, KEY, DT, ST, RDRW, TACC)"), the parameters it runs with, what the outside world supplies to it,
the ways a step can stop, the operations of the host and their responses, and the state after reset. -/

namespace Sys2Proof.Machine

/-- Memory: the bytes that differ from the contents after `power_on`, addresses strictly rising (log entry 8). -/
abbrev Memory := List Host.Cell

/-- The display buffer `FB[y][x]`: 32 rows of 64 cells, a set cell is `true` (R19). -/
abbrev Display := Vector (Vector Bool 64) 32

/-- What an access out of bounds was (R174). -/
inductive Access where
  /-- an instruction fetch -/
  | fetch
  /-- a data read -/
  | read
  /-- a data write -/
  | write
  deriving DecidableEq, Repr

/-- The operations by which the host reaches the core (R4). -/
inductive HostOp where
  /-- `power_on` (R210) -/
  | powerOn
  /-- `reset()` (R211) -/
  | reset
  /-- `load_program(bytes)` (R52) -/
  | loadProgram (bytes : List Byte)
  /-- `set_key(code, pressed)` (R192) -/
  | setKey (code : Nat) (pressed : Bool)
  /-- `cycle(elapsed_time)` (R63) -/
  | cycle (elapsed : Nat)
  /-- `framebuffer()` (R193) -/
  | framebuffer
  /-- `redraw_pending()` (R194) -/
  | redrawPending
  /-- `ack_redraw()` (R195) -/
  | ackRedraw
  deriving DecidableEq, Repr

/-- The state of the machine. The first twelve fields are the spec's tuple; then three parameters of the machine, which
nothing writes; then four fields of the model's own, what the outside world supplies. -/
structure State where
  /-- `MEM` (R24), as `Memory.get` reads it -/
  mem : Memory
  /-- `V[0]` to `V[15]` (R10) -/
  v : Vector Byte 16
  /-- `I` (R14) -/
  i : Word
  /-- `PC` (R15) -/
  pc : Word
  /-- `STK[0]` to `STK[15]` (R17) -/
  stk : Vector Word 16
  /-- `SP`, the number of live entries, 0 to 16 (R18) -/
  sp : Fin 17
  /-- `FB` (R19) -/
  fb : Display
  /-- `KEY[0]` to `KEY[15]` (R20) -/
  key : Vector Bool 16
  /-- `DT` (R21) -/
  dt : Byte
  /-- `ST` (R21) -/
  st : Byte
  /-- `RDRW` (R22) -/
  rdrw : Bool
  /-- `TACC` (R23) -/
  tacc : Nat
  /-- the parameter `FONT` (R3, R45), fixed for a run: log entry 6 -/
  font : Config.Font
  /-- the parameter `SHIFT_USES_VY` (R3, R25), fixed for a run: log entry 5 -/
  shiftUsesVy : Bool
  /-- the parameter `TICK_INTERVAL` (R3), fixed for a run: log entry 4 -/
  tickInterval : Nat
  /-- the model's own: the host's operations not yet performed, oldest first (R4): log entry 1 -/
  pending : List HostOp
  /-- the model's own: how many cycles took their `elapsed_time` as a free value: log entry 2 -/
  freeCycles : Nat
  /-- the model's own: the bytes the random source has been given to deliver, in order (R3): log entry 3 -/
  rndFeed : List Byte
  /-- the model's own: how many random draws were free values: log entry 3 -/
  rndDraws : Nat
  deriving DecidableEq, Repr

/-- A fault of a cycle, with the record the host gets (R170 to R176). Every fault ends the cycle and changes nothing
(R171). `pc0` is the address of the instruction, `w` its word. All are the spec's own and SAFE: the machine stops where the
spec says the cycle ends. -/
inductive Fault where
  /-- code 1: raised by `RET` when `SP = 0` (R172); safe -/
  | stackUnderflow (pc0 : Word) (w : Word)
  /-- code 2: raised by `CALL` when `SP = 16` (R173); safe -/
  | stackOverflow (pc0 : Word) (w : Word)
  /-- code 3: raised by the fetch (`w` absent), `DRW`, `LD B`, `LD [I]` and `LD Vx, [I]` for an address above 0xFFF, the
  lowest such address recorded (R174); safe -/
  | memoryOutOfBounds (pc0 : Word) (w : Option Word) (addr : Nat) (access : Access)
  /-- code 4: raised by nothing; kept so that the taxonomy is the spec's (R175, "unreachable"): log entry 30; safe -/
  | registerIndexOutOfBounds (pc0 : Word) (w : Word) (index : Nat)
  /-- code 5: raised by `SKP` and `SKNP` when `V[x] > 0xF` (R146, R175): log entry 15; safe -/
  | keyIndexOutOfBounds (pc0 : Word) (w : Word) (key : Byte)
  deriving DecidableEq, Repr

/-- A step without a meaning. No instruction of this machine is refused; the host operations that the spec refuses
(R181) answer an error and the machine goes on. -/
inductive Refusal where
  /-- raised by an arm of `exec` whose instruction has no meaning yet (none today); safe -/
  | notModelled (mnemonic : String)
  deriving DecidableEq, Repr

/-- What an operation answers to the host. -/
inductive Response where
  /-- the operation is done and has no value -/
  | done
  /-- a cycle's `Ok` (R176) -/
  | ok
  /-- a cycle's `Ok(diag w)`: the word was an unknown opcode (R176, R182) -/
  | okDiag (w : Word)
  /-- a cycle's `Fault(…)` (R176) -/
  | fault (f : Fault)
  /-- a cycle without a meaning (never answered: every instruction has one) -/
  | refused (r : Refusal)
  /-- the error `LoadTooLarge` of `load_program` (R52, R181) -/
  | loadTooLarge
  /-- the error `BadKeyCode` of `set_key` (R181, R192) -/
  | badKeyCode
  /-- the 2048 cells of `framebuffer()`, row-major (R193) -/
  | cells (cs : List Bool)
  /-- the flag of `redraw_pending()` (R194) -/
  | redraw (b : Bool)
  deriving DecidableEq, Repr

/-- A step's outcome for this machine. -/
abbrev Result := Host.Outcome State Fault Refusal

/-- The machine right after reset: the `power_on` column of R27, memory with nothing listed, no host operation pending.
Values the spec does not state: log entries 4, 5, 6, 10. -/
def State.reset : State where
  mem := []
  v := Vector.replicate 16 0#8
  i := 0#16
  pc := 0x200#16
  stk := Vector.replicate 16 0#16
  sp := 0
  fb := Vector.replicate 32 (Vector.replicate 64 false)
  key := Vector.replicate 16 false
  dt := 0#8
  st := 0#8
  rdrw := false
  tacc := 0
  font := Config.fontDefault
  shiftUsesVy := Config.shiftUsesVyDefault
  tickInterval := Config.tickInterval
  pending := []
  freeCycles := 0
  rndFeed := []
  rndDraws := 0

end Sys2Proof.Machine
end

