-- ==== Sys2Proof/Machine/Flags.lean ====
section
/-! DEFINITION. The flag outputs and the arithmetic they go with (spec/10_state.md R12, spec/41_alu.md R126 to R132): the exact
result on naturals, narrowed at the end. Comparisons are strict. -/

namespace Sys2Proof.Machine

/-- `(a + b) mod 256` (R121, R126). -/
def addByte (a b : Byte) : Byte := BitVec.ofNat 8 (a.toNat + b.toNat)

/-- Carry: the unreduced sum is above 255 (R126). -/
def carryFlag (a b : Byte) : Bool := decide (255 < a.toNat + b.toNat)

/-- `(a - b) mod 256`: 256 plus the difference when `a < b` (R127, R129, R132). -/
def subByte (a b : Byte) : Byte := BitVec.ofNat 8 (a.toNat + 256 - b.toNat)

/-- Strictly greater, before the subtraction: 0 for equal operands (R127, R129, R132). -/
def greaterFlag (a b : Byte) : Bool := decide (b.toNat < a.toNat)

/-- `a >> 1`, logical (R128). -/
def shiftRight1 (a : Byte) : Byte := BitVec.ofNat 8 (a.toNat / 2)

/-- The bit that `a >> 1` shifts out: bit 0 (R128). -/
def shiftRightOut (a : Byte) : Bool := a.getLsbD 0

/-- `(a << 1) mod 256` (R130). -/
def shiftLeft1 (a : Byte) : Byte := BitVec.ofNat 8 (a.toNat * 2)

/-- The bit that `a << 1` shifts out: bit 7 (R130). -/
def shiftLeftOut (a : Byte) : Bool := a.getLsbD 7

end Sys2Proof.Machine
end

