-- ==== Sys2Proof/Syntax.lean ====
section
/-! DEFINITION. The 35 instructions of spec/30_encoding.md R68, one constructor for each row of the opcode table. -/

namespace Sys2Proof

/-- An instruction with its operands (R61, R72, R73). `x` and `y` name registers, `nn` is a byte, `nnn` an address,
`n` a number of sprite rows. -/
inductive Instr where
  /-- `00E0` CLS (R160) -/
  | cls
  /-- `00EE` RET (R100) -/
  | ret
  /-- `0000` HALT (R101) -/
  | halt
  /-- `1nnn` JP nnn (R102) -/
  | jp (nnn : Addr12)
  /-- `2nnn` CALL nnn (R103) -/
  | call (nnn : Addr12)
  /-- `3xnn` SE Vx, nn (R104) -/
  | seImm (x : Reg) (nn : Byte)
  /-- `4xnn` SNE Vx, nn (R105) -/
  | sneImm (x : Reg) (nn : Byte)
  /-- `5xy0` SE Vx, Vy (R106) -/
  | seReg (x y : Reg)
  /-- `6xnn` LD Vx, nn (R120) -/
  | ldImm (x : Reg) (nn : Byte)
  /-- `7xnn` ADD Vx, nn (R121) -/
  | addImm (x : Reg) (nn : Byte)
  /-- `8xy0` LD Vx, Vy (R122) -/
  | ldReg (x y : Reg)
  /-- `8xy1` OR Vx, Vy (R123) -/
  | orReg (x y : Reg)
  /-- `8xy2` AND Vx, Vy (R124) -/
  | andReg (x y : Reg)
  /-- `8xy3` XOR Vx, Vy (R125) -/
  | xorReg (x y : Reg)
  /-- `8xy4` ADD Vx, Vy (R126) -/
  | addReg (x y : Reg)
  /-- `8xy5` SUB Vx, Vy (R127) -/
  | subReg (x y : Reg)
  /-- `8xy6` SHR Vx, Vy (R128) -/
  | shr (x y : Reg)
  /-- `8xy7` SUBN Vx, Vy (R129) -/
  | subnReg (x y : Reg)
  /-- `8xyE` SHL Vx, Vy (R130) -/
  | shl (x y : Reg)
  /-- `9xy0` SNE Vx, Vy (R107) -/
  | sneReg (x y : Reg)
  /-- `Annn` LD I, nnn (R150) -/
  | ldI (nnn : Addr12)
  /-- `Bnnn` JP V0, nnn (R109) -/
  | jpV0 (nnn : Addr12)
  /-- `Cxnn` RND Vx, nn (R131) -/
  | rnd (x : Reg) (nn : Byte)
  /-- `Dxyn` DRW Vx, Vy, n (R162) -/
  | drw (x y : Reg) (n : Nat)
  /-- `Ex9E` SKP Vx (R140) -/
  | skp (x : Reg)
  /-- `ExA1` SKNP Vx (R141) -/
  | sknp (x : Reg)
  /-- `Fx07` LD Vx, DT (R143) -/
  | ldVxDT (x : Reg)
  /-- `Fx0A` LD Vx, K (R142) -/
  | ldVxK (x : Reg)
  /-- `Fx15` LD DT, Vx (R144) -/
  | ldDTVx (x : Reg)
  /-- `Fx18` LD ST, Vx (R145) -/
  | ldSTVx (x : Reg)
  /-- `Fx1E` ADD I, Vx (R151) -/
  | addI (x : Reg)
  /-- `Fx29` LD F, Vx (R152) -/
  | ldF (x : Reg)
  /-- `Fx33` LD B, Vx (R153) -/
  | ldB (x : Reg)
  /-- `Fx55` LD [I], Vx (R155) -/
  | storeRegs (x : Reg)
  /-- `Fx65` LD Vx, [I] (R156) -/
  | loadRegs (x : Reg)
  deriving DecidableEq, Repr

end Sys2Proof
end

