-- ==== Sys2Proof/WellFormed.lean ====
section
/-! DEFINITION. Which instruction terms the encoding can hold. The widths of `x`, `y`, `nn` and `nnn` are their types;
the row count `n` of `DRW` is a number and must fit its 4-bit field (spec/30_encoding.md R61, R72). -/

namespace Sys2Proof

/-- The instruction's operands fit the fields of its word (R61, R73: "numbers that must fit 8, 12 and 4 bits"). -/
def Instr.wellFormed : Instr → Bool
  | .drw _ _ n => decide (n < 16)
  | .cls | .ret | .halt | .jp _ | .call _ | .seImm _ _ | .sneImm _ _ | .seReg _ _ | .ldImm _ _ | .addImm _ _
  | .ldReg _ _ | .orReg _ _ | .andReg _ _ | .xorReg _ _ | .addReg _ _ | .subReg _ _ | .shr _ _ | .subnReg _ _
  | .shl _ _ | .sneReg _ _ | .ldI _ | .jpV0 _ | .rnd _ _ | .skp _ | .sknp _ | .ldVxDT _ | .ldVxK _ | .ldDTVx _
  | .ldSTVx _ | .addI _ | .ldF _ | .ldB _ | .storeRegs _ | .loadRegs _ => true

end Sys2Proof
end

