-- ==== Sys2Proof/Decode.lean ====
section
/-! DEFINITION. The decoder (spec/30_encoding.md R60 to R70), total on any word and any list of bytes, and after it the
encoder, written from the same patterns (R68). -/

namespace Sys2Proof

/-- Why a word or a list of bytes is no instruction. A word of any of these groups is an UNKNOWN OPCODE, which the
machine runs as a no-op with a diagnostic (R70); none of them is a fault. -/
inductive Reject where
  /-- fewer than two bytes are left (only a list of bytes can be this; a fetch always has two) -/
  | truncated
  /-- `0nnn` other than `0000`, `00E0`, `00EE` (R65) -/
  | unknownGroup0 (w : Word)
  /-- `5xyN` with N not 0 (R66) -/
  | unknownGroup5 (w : Word)
  /-- `8xyN` with N one of 8 to D, F (R67) -/
  | unknownGroup8 (w : Word)
  /-- `9xyN` with N not 0 (R66) -/
  | unknownGroup9 (w : Word)
  /-- `ExNN` with NN neither 9E nor A1 (R69) -/
  | unknownGroupE (w : Word)
  /-- `FxNN` with NN none of the nine of R69 -/
  | unknownGroupF (w : Word)
  deriving DecidableEq, Repr

/-! ### The fields of a word (R61) -/

/-- `group`, bits 15 to 12. -/
def groupOf (w : Word) : BitVec 4 := w.extractLsb' 12 4
/-- `x`, bits 11 to 8. -/
def xOf (w : Word) : Reg := (w.extractLsb' 8 4).toFin
/-- `y`, bits 7 to 4. -/
def yOf (w : Word) : Reg := (w.extractLsb' 4 4).toFin
/-- `n`, bits 3 to 0, as a number. -/
def nOf (w : Word) : Nat := (w.extractLsb' 0 4).toNat
/-- `nn`, bits 7 to 0. -/
def nnOf (w : Word) : Byte := w.extractLsb' 0 8
/-- `nnn`, bits 11 to 0. -/
def nnnOf (w : Word) : Addr12 := w.extractLsb' 0 12

/-! ### Dispatch: the second level in groups 0, 5, 8, 9, E, F, then the first level (R64) -/

/-- Group 0 matches on the whole word (R65). -/
def decodeGroup0 (w : Word) : Except Reject Instr :=
  if w = 0x00E0#16 then .ok .cls
  else if w = 0x00EE#16 then .ok .ret
  else if w = 0x0000#16 then .ok .halt
  else .error (.unknownGroup0 w)

/-- Group 5 requires `n = 0` (R66). -/
def decodeGroup5 (w : Word) : Except Reject Instr :=
  if nOf w = 0 then .ok (.seReg (xOf w) (yOf w)) else .error (.unknownGroup5 w)

/-- Group 8 dispatches on `n` (R67). -/
def decodeGroup8 (w : Word) : Except Reject Instr :=
  match nOf w with
  | 0x0 => .ok (.ldReg (xOf w) (yOf w))
  | 0x1 => .ok (.orReg (xOf w) (yOf w))
  | 0x2 => .ok (.andReg (xOf w) (yOf w))
  | 0x3 => .ok (.xorReg (xOf w) (yOf w))
  | 0x4 => .ok (.addReg (xOf w) (yOf w))
  | 0x5 => .ok (.subReg (xOf w) (yOf w))
  | 0x6 => .ok (.shr (xOf w) (yOf w))
  | 0x7 => .ok (.subnReg (xOf w) (yOf w))
  | 0xE => .ok (.shl (xOf w) (yOf w))
  | _ => .error (.unknownGroup8 w)

/-- Group 9 requires `n = 0` (R66). -/
def decodeGroup9 (w : Word) : Except Reject Instr :=
  if nOf w = 0 then .ok (.sneReg (xOf w) (yOf w)) else .error (.unknownGroup9 w)

/-- Group E dispatches on `nn` (R69). -/
def decodeGroupE (w : Word) : Except Reject Instr :=
  if nnOf w = 0x9E#8 then .ok (.skp (xOf w))
  else if nnOf w = 0xA1#8 then .ok (.sknp (xOf w))
  else .error (.unknownGroupE w)

/-- Group F dispatches on `nn` (R69). -/
def decodeGroupF (w : Word) : Except Reject Instr :=
  if nnOf w = 0x07#8 then .ok (.ldVxDT (xOf w))
  else if nnOf w = 0x0A#8 then .ok (.ldVxK (xOf w))
  else if nnOf w = 0x15#8 then .ok (.ldDTVx (xOf w))
  else if nnOf w = 0x18#8 then .ok (.ldSTVx (xOf w))
  else if nnOf w = 0x1E#8 then .ok (.addI (xOf w))
  else if nnOf w = 0x29#8 then .ok (.ldF (xOf w))
  else if nnOf w = 0x33#8 then .ok (.ldB (xOf w))
  else if nnOf w = 0x55#8 then .ok (.storeRegs (xOf w))
  else if nnOf w = 0x65#8 then .ok (.loadRegs (xOf w))
  else .error (.unknownGroupF w)

/-- The decoder: pure and total on 16-bit words (R62), sixteen handlers chosen by `group` (R64). -/
def decode (w : Word) : Except Reject Instr :=
  match (groupOf w).toNat with
  | 0x0 => decodeGroup0 w
  | 0x1 => .ok (.jp (nnnOf w))
  | 0x2 => .ok (.call (nnnOf w))
  | 0x3 => .ok (.seImm (xOf w) (nnOf w))
  | 0x4 => .ok (.sneImm (xOf w) (nnOf w))
  | 0x5 => decodeGroup5 w
  | 0x6 => .ok (.ldImm (xOf w) (nnOf w))
  | 0x7 => .ok (.addImm (xOf w) (nnOf w))
  | 0x8 => decodeGroup8 w
  | 0x9 => decodeGroup9 w
  | 0xA => .ok (.ldI (nnnOf w))
  | 0xB => .ok (.jpV0 (nnnOf w))
  | 0xC => .ok (.rnd (xOf w) (nnOf w))
  | 0xD => .ok (.drw (xOf w) (yOf w) (nOf w))
  | 0xE => decodeGroupE w
  | _ => decodeGroupF w

/-- The word stored in two consecutive bytes, the first the more significant (R43, R60). -/
def wordOfBytes (hi lo : Byte) : Word := hi ++ lo

/-- The more significant byte of a word: the one at the lower address (R43). -/
def hiByte (w : Word) : Byte := w.extractLsb' 8 8
/-- The less significant byte of a word: the one at the higher address (R43). -/
def loByte (w : Word) : Byte := w.extractLsb' 0 8

/-- Decode the first instruction of a list of bytes, and give the rest (R60: every instruction is two bytes). -/
def decodeBytes : List Byte → Except Reject (Instr × List Byte)
  | hi :: lo :: rest =>
    match decode (wordOfBytes hi lo) with
    | .ok i => .ok (i, rest)
    | .error r => .error r
  | _ => .error .truncated

/-! ### The encoder -/

/-- The word `{group, x, y, n}` (R61), each field below its width. -/
def packXYN (group x y n : Nat) : Word := BitVec.ofNat 16 (group * 4096 + x * 256 + y * 16 + n)
/-- The word `{group, x, nn}` (R61). -/
def packXNN (group x nn : Nat) : Word := BitVec.ofNat 16 (group * 4096 + x * 256 + nn)
/-- The word `{group, nnn}` (R61). -/
def packNNN (group nnn : Nat) : Word := BitVec.ofNat 16 (group * 4096 + nnn)

/-- The word of an instruction: each operand in the field of its name, in the pattern of R68 (R73). -/
def encode : Instr → Word
  | .cls => 0x00E0#16
  | .ret => 0x00EE#16
  | .halt => 0x0000#16
  | .jp nnn => packNNN 0x1 nnn.toNat
  | .call nnn => packNNN 0x2 nnn.toNat
  | .seImm x nn => packXNN 0x3 x nn.toNat
  | .sneImm x nn => packXNN 0x4 x nn.toNat
  | .seReg x y => packXYN 0x5 x y 0x0
  | .ldImm x nn => packXNN 0x6 x nn.toNat
  | .addImm x nn => packXNN 0x7 x nn.toNat
  | .ldReg x y => packXYN 0x8 x y 0x0
  | .orReg x y => packXYN 0x8 x y 0x1
  | .andReg x y => packXYN 0x8 x y 0x2
  | .xorReg x y => packXYN 0x8 x y 0x3
  | .addReg x y => packXYN 0x8 x y 0x4
  | .subReg x y => packXYN 0x8 x y 0x5
  | .shr x y => packXYN 0x8 x y 0x6
  | .subnReg x y => packXYN 0x8 x y 0x7
  | .shl x y => packXYN 0x8 x y 0xE
  | .sneReg x y => packXYN 0x9 x y 0x0
  | .ldI nnn => packNNN 0xA nnn.toNat
  | .jpV0 nnn => packNNN 0xB nnn.toNat
  | .rnd x nn => packXNN 0xC x nn.toNat
  | .drw x y n => packXYN 0xD x y n
  | .skp x => packXNN 0xE x 0x9E
  | .sknp x => packXNN 0xE x 0xA1
  | .ldVxDT x => packXNN 0xF x 0x07
  | .ldVxK x => packXNN 0xF x 0x0A
  | .ldDTVx x => packXNN 0xF x 0x15
  | .ldSTVx x => packXNN 0xF x 0x18
  | .addI x => packXNN 0xF x 0x1E
  | .ldF x => packXNN 0xF x 0x29
  | .ldB x => packXNN 0xF x 0x33
  | .storeRegs x => packXNN 0xF x 0x55
  | .loadRegs x => packXNN 0xF x 0x65

/-- The two bytes of an instruction as the hardware stores them, the first at the lower address (R43). -/
def encodeBytes (i : Instr) : List Byte := [hiByte (encode i), loByte (encode i)]

/-- The instruction the decoder reads from the word the opcode table numbers `w` (one 16-bit word a row; bits above
`nbits` are 0), laid out high byte first as memory holds it. -/
def decodeTableWord (nbits w : Nat) : Option Instr :=
  let word : Word := BitVec.ofNat 16 (w % 2 ^ nbits)
  match decodeBytes [hiByte word, loByte word] with
  | .ok (i, _) => some i
  | .error _ => none

/-! ### The opcode table as rows (R68) -/

/-- The `mask` and `match` columns of a row of R68: a word `w` is of the row when `w and mask = match`. -/
def rowOf : Instr → Word × Word
  | .cls => (0xFFFF#16, 0x00E0#16)
  | .ret => (0xFFFF#16, 0x00EE#16)
  | .halt => (0xFFFF#16, 0x0000#16)
  | .jp _ => (0xF000#16, 0x1000#16)
  | .call _ => (0xF000#16, 0x2000#16)
  | .seImm _ _ => (0xF000#16, 0x3000#16)
  | .sneImm _ _ => (0xF000#16, 0x4000#16)
  | .seReg _ _ => (0xF00F#16, 0x5000#16)
  | .ldImm _ _ => (0xF000#16, 0x6000#16)
  | .addImm _ _ => (0xF000#16, 0x7000#16)
  | .ldReg _ _ => (0xF00F#16, 0x8000#16)
  | .orReg _ _ => (0xF00F#16, 0x8001#16)
  | .andReg _ _ => (0xF00F#16, 0x8002#16)
  | .xorReg _ _ => (0xF00F#16, 0x8003#16)
  | .addReg _ _ => (0xF00F#16, 0x8004#16)
  | .subReg _ _ => (0xF00F#16, 0x8005#16)
  | .shr _ _ => (0xF00F#16, 0x8006#16)
  | .subnReg _ _ => (0xF00F#16, 0x8007#16)
  | .shl _ _ => (0xF00F#16, 0x800E#16)
  | .sneReg _ _ => (0xF00F#16, 0x9000#16)
  | .ldI _ => (0xF000#16, 0xA000#16)
  | .jpV0 _ => (0xF000#16, 0xB000#16)
  | .rnd _ _ => (0xF000#16, 0xC000#16)
  | .drw _ _ _ => (0xF000#16, 0xD000#16)
  | .skp _ => (0xF0FF#16, 0xE09E#16)
  | .sknp _ => (0xF0FF#16, 0xE0A1#16)
  | .ldVxDT _ => (0xF0FF#16, 0xF007#16)
  | .ldVxK _ => (0xF0FF#16, 0xF00A#16)
  | .ldDTVx _ => (0xF0FF#16, 0xF015#16)
  | .ldSTVx _ => (0xF0FF#16, 0xF018#16)
  | .addI _ => (0xF0FF#16, 0xF01E#16)
  | .ldF _ => (0xF0FF#16, 0xF029#16)
  | .ldB _ => (0xF0FF#16, 0xF033#16)
  | .storeRegs _ => (0xF0FF#16, 0xF055#16)
  | .loadRegs _ => (0xF0FF#16, 0xF065#16)

/-- The word is of the row that the instruction's constructor stands for (R68). -/
def matchesRow (i : Instr) (w : Word) : Bool := w &&& (rowOf i).1 == (rowOf i).2

/-- The 35 rows of R68, one instruction of each (its operands do not matter to the row). -/
def opcodeTable : List Instr :=
  [.cls, .ret, .halt, .jp 0, .call 0, .seImm 0 0, .sneImm 0 0, .seReg 0 0, .ldImm 0 0, .addImm 0 0] ++
  [.ldReg 0 0, .orReg 0 0, .andReg 0 0, .xorReg 0 0, .addReg 0 0, .subReg 0 0, .shr 0 0, .subnReg 0 0, .shl 0 0] ++
  [.sneReg 0 0, .ldI 0, .jpV0 0, .rnd 0 0, .drw 0 0 0, .skp 0, .sknp 0] ++
  [.ldVxDT 0, .ldVxK 0, .ldDTVx 0, .ldSTVx 0, .addI 0, .ldF 0, .ldB 0, .storeRegs 0, .loadRegs 0]

end Sys2Proof
end

