-- ==== Sys2Proof/Machine/Ops.lean ====
section
/-! DEFINITION. The named operations over memory, registers, stack and program counter that the meanings share, and
raising a fault (spec/10_state.md, spec/20_memory.md, spec/60_exceptions.md). -/

namespace Sys2Proof.Machine

/-! ### Memory (R24, R40 to R43) -/

/-- What an address that memory does not list reads as: the contents after `power_on` (R27), the font table at 0x000 to
0x04F (R45) and 0 elsewhere. -/
def Memory.unlisted (font : Config.Font) (a : Nat) : Byte :=
  if h : a < Config.fontBytes then font[a] else 0#8

/-- The byte at an address. -/
def Memory.get (font : Config.Font) : Memory → Nat → Byte
  | [], a => Memory.unlisted font a
  | (k, b) :: m, a =>
    if a < k then Memory.unlisted font a
    else if a = k then b
    else Memory.get font m a

/-- A cell to be listed, or nothing where it holds what an unlisted address reads as. -/
def Memory.cell (font : Config.Font) (a : Nat) (b : Byte) : Memory :=
  if b = Memory.unlisted font a then [] else [(a, b)]

/-- Memory with the byte at one address replaced; the canonical form is kept. -/
def Memory.put (font : Config.Font) : Memory → Nat → Byte → Memory
  | [], a, b => Memory.cell font a b
  | (k, c) :: m, a, b =>
    if a < k then Memory.cell font a b ++ (k, c) :: m
    else if a = k then Memory.cell font a b ++ m
    else (k, c) :: Memory.put font m a b

/-- The canonical form from an address on: addresses strictly rising, none below `lo` or above 0xFFF, no entry equal to
what an unlisted address reads as. -/
def Memory.wfFrom (font : Config.Font) (lo : Nat) : Memory → Bool
  | [] => true
  | (k, b) :: m =>
    decide (lo ≤ k) && decide (k ≤ Config.memTop) && b != Memory.unlisted font k && Memory.wfFrom font (k + 1) m

/-- The canonical form of a memory. -/
def Memory.wf (font : Config.Font) (m : Memory) : Bool := Memory.wfFrom font 0 m

/-- The memory of a state is in canonical form, for the font of the state. -/
@[simp] abbrev State.memWf (s : State) : Bool := s.mem.wf s.font

/-- `MEM[a]`. -/
def State.byteAt (s : State) (a : Nat) : Byte := s.mem.get s.font a

/-- `MEM[a] <- b`. -/
def State.storeByte (s : State) (a : Nat) (b : Byte) : State := { s with mem := s.mem.put s.font a b }

/-- `MemRead(a, 1)`: the byte, or the address that is out of range (R41). The address is not reduced before the test. -/
def State.memRead (s : State) (a : Nat) : Except Nat Byte :=
  if a ≤ Config.memTop then .ok (s.byteAt a) else .error a

/-- `MemWrite(a, 1, b)`: the state after, or the address that is out of range (R42). -/
def State.memWrite (s : State) (a : Nat) (b : Byte) : Except Nat State :=
  if a ≤ Config.memTop then .ok (s.storeByte a b) else .error a

/-- The `n` bytes at `a`, `a + 1`, ... -/
def State.bytesFrom (s : State) (a : Nat) : Nat → List Byte
  | 0 => []
  | n + 1 => s.byteAt a :: s.bytesFrom (a + 1) n

/-- Store bytes at `a`, `a + 1`, ... -/
def State.storeBytes (s : State) (a : Nat) : List Byte → State
  | [] => s
  | b :: bs => (s.storeByte a b).storeBytes (a + 1) bs

/-- The lowest out-of-range address that a block of `len` bytes at `base` touches, if its highest address is above 0xFFF:
`max(base, 0x1000)` (R154, R162, R174). An empty block touches none. -/
def blockFault (base len : Nat) : Option Nat :=
  if 0 < len ∧ Config.memTop < base + len - 1 then some (max base Config.memSize) else none

/-! ### Registers, stack, program counter (R10 to R18) -/

/-- `V[x]`. -/
def State.readV (s : State) (x : Reg) : Byte := s.v[x]

/-- `V[x] <- b` (R11). -/
def State.writeV (s : State) (x : Reg) (b : Byte) : State := { s with v := s.v.set x b }

/-- `V[x] <- b`, then `V[0xF] <- flag`: the flag is written last, so with `x = 0xF` it wins (R13). -/
def State.writeVFlag (s : State) (x : Reg) (b : Byte) (flag : Bool) : State :=
  (s.writeV x b).writeV vf (bitByte flag)

/-- `I <- w`. -/
def State.setI (s : State) (w : Word) : State := { s with i := w }

/-- `pc <- w`. -/
def State.setPc (s : State) (w : Word) : State := { s with pc := w }

/-- The address the instruction in execution was fetched from: PC has been advanced by 2 (R15). -/
def State.pc0 (s : State) : Word := s.pc - 2#16

/-- The advance of PC by 2 after the fetch (R15, R63). -/
def State.advance (s : State) : State := s.setPc (s.pc + 2#16)

/-- Skip the next instruction: `pc <- (PC + 2) mod 65536`, on the PC already advanced (R108). -/
def State.skip (s : State) : State := s.setPc (s.pc + 2#16)

/-- Skip if the condition holds. -/
def State.skipIf (s : State) (c : Bool) : State := if c then s.skip else s

/-- Wait by re-execution: `pc <- PC - 2`, so the same instruction is fetched next (R101, R142, R198). -/
def State.rewind (s : State) : State := s.setPc s.pc0

/-- `STK[k]`. -/
def State.slot (s : State) (k : Fin 16) : Word := s.stk[k]

/-- `STK[SP] <- w; SP <- SP + 1`, or nothing when `SP = 16` (R17, R103). -/
def State.push? (s : State) (w : Word) : Option State :=
  if h : s.sp.val < Config.stackDepth then
    some { s with stk := s.stk.set s.sp.val w, sp := ⟨s.sp.val + 1, Nat.succ_lt_succ h⟩ }
  else none

/-- `SP <- SP - 1`, with the entry `STK[SP]` it uncovers, or nothing when `SP = 0` (R17, R100). -/
def State.pop? (s : State) : Option (Word × State) :=
  match s.sp with
  | ⟨0, _⟩ => none
  | ⟨k + 1, h⟩ => some (s.slot ⟨k, Nat.lt_of_succ_lt_succ h⟩, { s with sp := ⟨k, Nat.lt_of_succ_lt h⟩ })

/-! ### Timers, display, random source (R19 to R22, R131) -/

/-- `DT <- b`. -/
def State.setDt (s : State) (b : Byte) : State := { s with dt := b }

/-- `ST <- b`. -/
def State.setSt (s : State) (b : Byte) : State := { s with st := b }

/-- `FB` replaced and `RDRW <- 1` (R22, R160, R162). -/
def State.setDisplay (s : State) (d : Display) : State := { s with fb := d, rdrw := true }

/-- `KEY[k]`. -/
def State.keyDown (s : State) (k : Fin 16) : Bool := s.key[k]

/-- The byte the random source delivers next: the first it has been given, else a free value (R131, log entry 3). -/
def State.rndNext (s : State) : Byte :=
  match s.rndFeed with
  | b :: _ => b
  | [] => Config.freeRnd s.rndDraws

/-- The random source after delivering a byte. -/
def State.rndTaken (s : State) : State :=
  match s.rndFeed with
  | _ :: bs => { s with rndFeed := bs }
  | [] => { s with rndDraws := s.rndDraws + 1 }

/-! ### Raising a fault (R171, R176, R179) -/

/-- `raise`: the cycle ends with the record of the fault, nothing else happens; there is no handler, vector or saved
register (R179) and no return instruction (R180). `kind` is the fault with its own information; the instruction's address
and word complete the record (R176). Every write of the cycle is discarded: the state stays the one before the cycle. -/
def raise (kind : Word → Word → Fault) (i : Instr) (s : State) : Result :=
  .fault (kind s.pc0 (encode i))

/-- Run `k` unless the block of `len` bytes at `I` leaves memory: then raise `MemoryOutOfBounds` with the lowest bad
address, before any write (R154, R162, R174). -/
def guardBlock (len : Nat) (access : Access) (i : Instr) (s k : State) : Result :=
  match blockFault s.i.toNat len with
  | some a => raise (fun p w => .memoryOutOfBounds p (some w) a access) i s
  | none => .next k

/-- Run `k` unless the whole byte is no key code: then raise `KeyIndexOutOfBounds` (R146). -/
def guardKey (code : Byte) (i : Instr) (s : State) (k : Fin 16 → State) : Result :=
  if h : code.toNat < 16 then .next (k ⟨code.toNat, h⟩)
  else raise (fun p w => .keyIndexOutOfBounds p w code) i s

/-! ### The record of a fault (R172 to R176) -/

/-- The code of a fault: 1 to 5; 0 is never used (R176). -/
def Fault.code : Fault → Nat
  | .stackUnderflow _ _ => 1
  | .stackOverflow _ _ => 2
  | .memoryOutOfBounds _ _ _ _ => 3
  | .registerIndexOutOfBounds _ _ _ => 4
  | .keyIndexOutOfBounds _ _ _ => 5

/-- The address of the faulting instruction, or of the failed fetch (R176). -/
def Fault.address : Fault → Word
  | .stackUnderflow p _ => p
  | .stackOverflow p _ => p
  | .memoryOutOfBounds p _ _ _ => p
  | .registerIndexOutOfBounds p _ _ => p
  | .keyIndexOutOfBounds p _ _ => p

/-- The instruction word, absent when the fetch itself faulted (R176). -/
def Fault.word? : Fault → Option Word
  | .stackUnderflow _ w => some w
  | .stackOverflow _ w => some w
  | .memoryOutOfBounds _ w _ _ => w
  | .registerIndexOutOfBounds _ w _ => some w
  | .keyIndexOutOfBounds _ w _ => some w

end Sys2Proof.Machine
end

