-- ==== Sys2Proof/Machine/Operands.lean ====
section
/-! DEFINITION. The operand forms (spec/30_encoding.md R72): registers, zero-extended immediates, and the implicit operands
`V[0]`, `V[0..x]`, `MEM[I..]`, the shift source, the pressed keys, the sprite rows and the cell coordinates. -/

namespace Sys2Proof.Machine

/-- The immediate `nnn` zero-extended to 16 bits (R72). -/
def addrImm (nnn : Addr12) : Word := nnn.setWidth 16

/-- A byte zero-extended to 16 bits (R72). -/
def byteWord (b : Byte) : Word := b.setWidth 16

/-- The source of `SHR` and `SHL`: `V[x]`, or `V[y]` when `SHIFT_USES_VY` (R128, R130). -/
def State.shiftSource (s : State) (x y : Reg) : Byte :=
  if s.shiftUsesVy then s.readV y else s.readV x

/-- The effective address `I + k`, an unbounded natural (spec/43_index_memory.md, before R150; R41). -/
def State.indexed (s : State) (k : Nat) : Nat := s.i.toNat + k

/-- The registers in order (R10). -/
def allRegs : List Reg := [0, 1, 2, 3, 4, 5, 6, 7, 8, 9, 10, 11, 12, 13, 14, 15]

/-- The values of `V[0]` to `V[x]` inclusive (R155). -/
def State.firstRegs (s : State) (x : Reg) : List Byte := (allRegs.take (x.val + 1)).map s.readV

/-- `V[k] <- MEM[I + k]` for `k` from 0 to `x`; the registers above keep their values (R156). -/
def State.loadFirstRegs (s : State) (x : Reg) : State :=
  { s with v := Vector.ofFn fun k => if k ≤ x then s.byteAt (s.indexed k.val) else s.readV k }

/-- The three decimal digits of a byte, hundreds first (R153). -/
def bcdDigits (b : Byte) : List Byte :=
  [BitVec.ofNat 8 (b.toNat / 100), BitVec.ofNat 8 (b.toNat / 10 % 10), BitVec.ofNat 8 (b.toNat % 10)]

/-- The least key code whose key is pressed (R142). -/
def State.firstKey? (s : State) : Option (Fin 16) := allRegs.find? s.keyDown

/-- Column `c` (0 to 7) of a sprite row: bit `7 - c`, so bit 7 is the leftmost (R161, log entry 7). -/
def spriteBit (b : Byte) (c : Nat) : Bool := b.getLsbD (7 - c)

/-- A cell's column: the coordinate modulo 64 (R162). -/
def wrapCol (c : Nat) : Fin 64 := ⟨c % 64, Nat.mod_lt _ (by decide)⟩

/-- A cell's row: the coordinate modulo 32 (R162). -/
def wrapRow (r : Nat) : Fin 32 := ⟨r % 32, Nat.mod_lt _ (by decide)⟩

end Sys2Proof.Machine
end

