-- ==== Sys2Proof/Machine/Alu.lean ====
section
/-! DEFINITION. Register moves, arithmetic, logic, shifts, random (spec/41_alu.md R120 to R131). Operands are read from the
state before any write; none of these can fault. -/

namespace Sys2Proof.Machine

/-- `LD Vx, nn` (R120). -/
def execLdImm (x : Reg) (nn : Byte) (s : State) : Result := .next (s.writeV x nn)

/-- `ADD Vx, nn`: no flag, even on a carry (R121). -/
def execAddImm (x : Reg) (nn : Byte) (s : State) : Result := .next (s.writeV x (addByte (s.readV x) nn))

/-- `LD Vx, Vy` (R122). -/
def execLdReg (x y : Reg) (s : State) : Result := .next (s.writeV x (s.readV y))

/-- `OR Vx, Vy`: VF is left alone (R123). -/
def execOrReg (x y : Reg) (s : State) : Result := .next (s.writeV x (s.readV x ||| s.readV y))

/-- `AND Vx, Vy` (R124). -/
def execAndReg (x y : Reg) (s : State) : Result := .next (s.writeV x (s.readV x &&& s.readV y))

/-- `XOR Vx, Vy` (R125). -/
def execXorReg (x y : Reg) (s : State) : Result := .next (s.writeV x (s.readV x ^^^ s.readV y))

/-- `ADD Vx, Vy`, VF := carry (R126). -/
def execAddReg (x y : Reg) (s : State) : Result :=
  .next (s.writeVFlag x (addByte (s.readV x) (s.readV y)) (carryFlag (s.readV x) (s.readV y)))

/-- `SUB Vx, Vy`, VF := (Vx > Vy) (R127). -/
def execSubReg (x y : Reg) (s : State) : Result :=
  .next (s.writeVFlag x (subByte (s.readV x) (s.readV y)) (greaterFlag (s.readV x) (s.readV y)))

/-- `SHR Vx, Vy`, VF := the bit shifted out (R128). -/
def execShr (x y : Reg) (s : State) : Result :=
  .next (s.writeVFlag x (shiftRight1 (s.shiftSource x y)) (shiftRightOut (s.shiftSource x y)))

/-- `SUBN Vx, Vy`, VF := (Vy > Vx) (R129). -/
def execSubnReg (x y : Reg) (s : State) : Result :=
  .next (s.writeVFlag x (subByte (s.readV y) (s.readV x)) (greaterFlag (s.readV y) (s.readV x)))

/-- `SHL Vx, Vy`, VF := the bit shifted out (R130). -/
def execShl (x y : Reg) (s : State) : Result :=
  .next (s.writeVFlag x (shiftLeft1 (s.shiftSource x y)) (shiftLeftOut (s.shiftSource x y)))

/-- `RND Vx, nn`: a fresh byte of the random source, masked (R131). -/
def execRnd (x : Reg) (nn : Byte) (s : State) : Result := .next (s.rndTaken.writeV x (s.rndNext &&& nn))

end Sys2Proof.Machine
end

