-- ==== Sys2Proof/Machine/ControlFlow.lean ====
section
/-! DEFINITION. Control flow (spec/40_control_flow.md R100 to R109). PC has already been advanced: it is `pc0 + 2`. Targets
are stored as they are, at any parity and of any size. -/

namespace Sys2Proof.Machine

/-- `RET`: pop PC; `StackUnderflow` when `SP = 0` (R100). -/
def execRet (s : State) : Result :=
  match s.pop? with
  | none => raise .stackUnderflow .ret s
  | some (w, t) => .next (t.setPc w)

/-- `HALT`: PC back to this instruction (R101). -/
def execHalt (s : State) : Result := .next s.rewind

/-- `JP nnn` (R102). -/
def execJp (nnn : Addr12) (s : State) : Result := .next (s.setPc (addrImm nnn))

/-- `CALL nnn`: push the advanced PC; `StackOverflow` when `SP = 16` (R103). -/
def execCall (nnn : Addr12) (s : State) : Result :=
  match s.push? s.pc with
  | none => raise .stackOverflow (.call nnn) s
  | some t => .next (t.setPc (addrImm nnn))

/-- `SE Vx, nn` (R104). -/
def execSeImm (x : Reg) (nn : Byte) (s : State) : Result := .next (s.skipIf (s.readV x == nn))

/-- `SNE Vx, nn` (R105). -/
def execSneImm (x : Reg) (nn : Byte) (s : State) : Result := .next (s.skipIf (s.readV x != nn))

/-- `SE Vx, Vy` (R106). -/
def execSeReg (x y : Reg) (s : State) : Result := .next (s.skipIf (s.readV x == s.readV y))

/-- `SNE Vx, Vy` (R107). -/
def execSneReg (x y : Reg) (s : State) : Result := .next (s.skipIf (s.readV x != s.readV y))

/-- `JP V0, nnn`: the sum is not reduced to 12 bits (R109). -/
def execJpV0 (nnn : Addr12) (s : State) : Result := .next (s.setPc (addrImm nnn + byteWord (s.readV 0)))

end Sys2Proof.Machine
end

