-- ==== Sys2Proof/Machine/Display.lean ====
section
/-! DEFINITION. Display instructions (spec/44_display.md R160 to R162): clear, and the XOR sprite draw with wrap-around and
collision detection. -/

namespace Sys2Proof.Machine

/-- `FB[y][x]`. -/
def cellAt (d : Display) (y : Fin 32) (x : Fin 64) : Bool := d[y][x]

/-- `FB[y][x] <- FB[y][x] xor 1`. -/
def flipCell (d : Display) (y : Fin 32) (x : Fin 64) : Display := d.set y (d[y].set x (!d[y][x]))

/-- The display with every cell unset (R160). -/
def blankDisplay : Display := Vector.replicate 32 (Vector.replicate 64 false)

/-- A display being drawn on: its cells, and whether a set cell has been turned off (the collision, R162). -/
abbrev Canvas := Display × Bool

/-- One set bit of a sprite: a set cell about to be turned off is a collision; the cell is flipped (R162). -/
def drawPixel (c : Canvas) (y : Fin 32) (x : Fin 64) : Canvas := (flipCell c.1 y x, c.2 || cellAt c.1 y x)

/-- Column `col` of a sprite row: a 0 bit does nothing (R162). -/
def drawColumn (b : Byte) (vx : Nat) (y : Fin 32) (c : Canvas) (col : Nat) : Canvas :=
  if spriteBit b col then drawPixel c y (wrapCol (vx + col)) else c

/-- One row of a sprite, columns 0 to 7 (R161, R162). -/
def drawRow (b : Byte) (vx : Nat) (y : Fin 32) (c : Canvas) : Canvas :=
  [0, 1, 2, 3, 4, 5, 6, 7].foldl (drawColumn b vx y) c

/-- The rows of a sprite, the first at display row `vy`, each coordinate wrapped separately (R162). -/
def drawRows (vx vy : Nat) : List Byte → Canvas → Canvas
  | [], c => c
  | b :: bs, c => drawRows vx (vy + 1) bs (drawRow b vx (wrapRow vy) c)

/-- The display and the collision after `DRW` with these operands: VF starts at 0 (R162). -/
def State.drawn (s : State) (x y : Reg) (n : Nat) : Canvas :=
  drawRows (s.readV x).toNat (s.readV y).toNat (s.bytesFrom (s.indexed 0) n) (s.fb, false)

/-- `CLS`: every cell unset, redraw pending (R160). -/
def execCls (s : State) : Result := .next (s.setDisplay blankDisplay)

/-- `DRW Vx, Vy, n`: coordinates sampled before VF is written; nothing is written when a row is out of memory (R162). -/
def execDrw (x y : Reg) (n : Nat) (s : State) : Result :=
  guardBlock n .read (.drw x y n) s
    ((s.setDisplay (s.drawn x y n).1).writeV vf (bitByte (s.drawn x y n).2))

end Sys2Proof.Machine
end

