-- ==== Sys2Proof/Machine/IndexMemory.lean ====
section
/-! DEFINITION. Index-register and memory-block instructions (spec/43_index_memory.md R150 to R156). A block's highest address
is checked before any write; `I` is never changed by an access (R154). -/

namespace Sys2Proof.Machine

/-- `LD I, nnn` (R150). -/
def execLdI (nnn : Addr12) (s : State) : Result := .next (s.setI (addrImm nnn))

/-- `ADD I, Vx`: modulo 65536, not masked to 12 bits, no flag (R151, log entry 12). -/
def execAddI (x : Reg) (s : State) : Result :=
  .next (s.setI (BitVec.ofNat 16 (s.i.toNat + (s.readV x).toNat)))

/-- `LD F, Vx`: the whole byte times 5 (R152). -/
def execLdF (x : Reg) (s : State) : Result :=
  .next (s.setI (BitVec.ofNat 16 ((s.readV x).toNat * Config.glyphBytes)))

/-- `LD B, Vx`: the three decimal digits at `I`, `I+1`, `I+2` (R153). -/
def execLdB (x : Reg) (s : State) : Result :=
  guardBlock 3 .write (.ldB x) s (s.storeBytes (s.indexed 0) (bcdDigits (s.readV x)))

/-- `LD [I], Vx`: store `V[0]` to `V[x]` at `I` (R155). -/
def execStoreRegs (x : Reg) (s : State) : Result :=
  guardBlock (x.val + 1) .write (.storeRegs x) s (s.storeBytes (s.indexed 0) (s.firstRegs x))

/-- `LD Vx, [I]`: load `V[0]` to `V[x]` from `I` (R156). -/
def execLoadRegs (x : Reg) (s : State) : Result :=
  guardBlock (x.val + 1) .read (.loadRegs x) s (s.loadFirstRegs x)

end Sys2Proof.Machine
end

