-- ==== Sys2Proof/Machine/Io.lean ====
section
/-! DEFINITION. Keyboard and timer instructions (spec/42_io.md R140 to R146). -/

namespace Sys2Proof.Machine

/-- `SKP Vx`: skip if the key is pressed; the whole byte is the code (R140, R146). -/
def execSkp (x : Reg) (s : State) : Result :=
  guardKey (s.readV x) (.skp x) s fun k => s.skipIf (s.keyDown k)

/-- `SKNP Vx`: skip if the key is not pressed (R141, R146). -/
def execSknp (x : Reg) (s : State) : Result :=
  guardKey (s.readV x) (.sknp x) s fun k => s.skipIf (!s.keyDown k)

/-- `LD Vx, K`: the least pressed key's code, or wait by re-execution (R142). -/
def execLdVxK (x : Reg) (s : State) : Result :=
  match s.firstKey? with
  | some k => .next (s.writeV x (BitVec.ofNat 8 k.val))
  | none => .next s.rewind

/-- `LD Vx, DT` (R143). -/
def execLdVxDT (x : Reg) (s : State) : Result := .next (s.writeV x s.dt)

/-- `LD DT, Vx` (R144). -/
def execLdDTVx (x : Reg) (s : State) : Result := .next (s.setDt (s.readV x))

/-- `LD ST, Vx` (R145). -/
def execLdSTVx (x : Reg) (s : State) : Result := .next (s.setSt (s.readV x))

end Sys2Proof.Machine
end

