-- ==== Sys2Proof/Machine/Timers.lean ====
section
/-! DEFINITION. The delay and sound timers (spec/60_exceptions.md R185 to R190). -/

namespace Sys2Proof.Machine

/-- One tick of one counter: down by 1 while above 0, never below 0 (R186). -/
def tick (b : Byte) : Byte := if 0 < b.toNat then b - 1#8 else b

/-- `k` ticks of one counter. -/
def ticks : Nat → Byte → Byte
  | 0, b => b
  | k + 1, b => ticks k (tick b)

/-- `TimerTick()`: one tick of both timers, each on its own (R186). -/
def timerTick (s : State) : State := { s with dt := tick s.dt, st := tick s.st }

/-- How many whole intervals the accumulated time makes (R187). -/
def State.dueTicks (s : State) (elapsed : Nat) : Nat := (s.tacc + elapsed) / s.tickInterval

/-- The timer step: `TACC <- TACC + elapsed_time`, then one tick for each whole interval, the rest kept (R187). -/
def timerStep (elapsed : Nat) (s : State) : State :=
  { s with
    tacc := (s.tacc + elapsed) % s.tickInterval
    dt := ticks (s.dueTicks elapsed) s.dt
    st := ticks (s.dueTicks elapsed) s.st }

end Sys2Proof.Machine
end

