-- ==== Sys2Proof/Machine/Cycle.lean ====
section
/-! DEFINITION. The cycle (spec/30_encoding.md R63): fetch, advance, decode, execute, timer step. -/

namespace Sys2Proof.Machine

/-- The instruction fetch: two bytes at PC, the first the more significant; an address out of range is reported, the
first of the two that is (R43, R174). -/
def fetch (s : State) : Except Fault Word :=
  match s.memRead s.pc.toNat with
  | .error a => .error (.memoryOutOfBounds s.pc none a .fetch)
  | .ok hi =>
    match s.memRead (s.pc.toNat + 1) with
    | .error a => .error (.memoryOutOfBounds s.pc none a .fetch)
    | .ok lo => .ok (wordOfBytes hi lo)

/-- Execute a fetched word: its instruction, or nothing for an unknown opcode (R70). -/
def execWord (w : Word) (s : State) : Result :=
  match decode w with
  | .ok i => exec i s
  | .error _ => .next s

/-- `cycle(elapsed_time)` (R63): a fault ends it at once and leaves the state as it was (R171); otherwise the timer step
follows the instruction (R188, R189). -/
def cycle (elapsed : Nat) (s : State) : Result :=
  match fetch s with
  | .error f => .fault f
  | .ok w =>
    match execWord w s.advance with
    | .next t => .next (timerStep elapsed t)
    | .fault f => .fault f
    | .refused r => .refused r

/-- The diagnostic a cycle from this state reports: the word, if it is an unknown opcode (R70, R182). -/
def diagnostic (s : State) : Option Word :=
  match fetch s with
  | .error _ => none
  | .ok w =>
    match decode w with
    | .ok _ => none
    | .error _ => some w

end Sys2Proof.Machine
end

