-- ==== Sys2Proof/Machine/HostInterface.lean ====
section
/-! DEFINITION. The operations of the host (spec/00_scope.md R4): power-on and reset (spec/70_reset_and_hazards.md R210, R211),
program load (spec/20_memory.md R52), keys, framebuffer and redraw flag (spec/60_exceptions.md R192 to R195), and the step:
one operation. -/

namespace Sys2Proof.Machine

/-- `power_on`: every piece of the spec's state at the `power_on` column of R27 (R210), memory with nothing listed, so `FONT` at
0x000 to 0x04F and 0 elsewhere (R45). The parameters and what the outside world supplies stay (log entry 31). -/
def powerOn (s : State) : State :=
  { State.reset with
    font := s.font
    shiftUsesVy := s.shiftUsesVy
    tickInterval := s.tickInterval
    pending := s.pending
    freeCycles := s.freeCycles
    rndFeed := s.rndFeed
    rndDraws := s.rndDraws }

/-- The program window of a memory, 0x200 to 0xFFF, with everything below at its power-on contents. -/
def Memory.keepWindow (m : Memory) : Memory := m.filter fun c => decide (Config.progBase ≤ c.1)

/-- `reset()`: as `power_on`, but the program window keeps its bytes (R211, log entry 17). -/
def resetOp (s : State) : State := { powerOn s with mem := s.mem.keepWindow }

/-- `load_program(bytes)`: the bytes at 0x200, or the error `LoadTooLarge` and no change (R52). -/
def loadProgram (bytes : List Byte) (s : State) : Response × State :=
  if bytes.length ≤ Config.maxProg then (.done, s.storeBytes Config.progBase bytes) else (.loadTooLarge, s)

/-- `set_key(code, pressed)`: one key flag, or the error `BadKeyCode` and no change (R192). -/
def setKey (code : Nat) (pressed : Bool) (s : State) : Response × State :=
  if h : code < 16 then (.done, { s with key := s.key.set code pressed }) else (.badKeyCode, s)

/-- The 2048 cells, row-major: cell `(y, x)` is the one at index `y * 64 + x` (R19, R193). -/
def cellsOf (d : Display) : List Bool := d.toList.flatMap Vector.toList

/-- `ack_redraw()`: `RDRW <- 0` (R195). -/
def ackRedraw (s : State) : State := { s with rdrw := false }

/-- One operation of the host, with its response (R4). A cycle that faults leaves the state as it was (R171), so the host
may go on with any operation (R180). -/
def perform (op : HostOp) (s : State) : Response × State :=
  match op with
  | .powerOn => (.done, powerOn s)
  | .reset => (.done, resetOp s)
  | .loadProgram bytes => loadProgram bytes s
  | .setKey code pressed => setKey code pressed s
  | .framebuffer => (.cells (cellsOf s.fb), s)
  | .redrawPending => (.redraw s.rdrw, s)
  | .ackRedraw => (.done, ackRedraw s)
  | .cycle elapsed =>
    match cycle elapsed s with
    | .next t =>
      match diagnostic s with
      | some w => (.okDiag w, t)
      | none => (.ok, t)
    | .fault f => (.fault f, s)
    | .refused r => (.refused r, s)

/-- A sequence of operations in their total order, with the responses (R4, R213). -/
def session : List HostOp → State → List Response × State
  | [], s => ([], s)
  | op :: ops, s =>
    let first := perform op s
    let rest := session ops first.2
    (first.1 :: rest.1, rest.2)

/-- The operation that comes next: the first pending one, else a cycle whose `elapsed_time` is a free value (log entries
1 and 2); and the state without it. -/
def nextOp (s : State) : HostOp × State :=
  match s.pending with
  | op :: ops => (op, { s with pending := ops })
  | [] => (.cycle (Config.freeElapsed s.freeCycles), { s with freeCycles := s.freeCycles + 1 })

/-- One step of the machine: the operation that comes next. A cycle that faults ends the run with the fault. -/
def stepOp (s : State) : Result :=
  match nextOp s with
  | (.cycle elapsed, t) => cycle elapsed t
  | (op, t) => .next (perform op t).2

/-- The state with a two-byte word where the next cycle fetches: at PC, or at 0x200 with PC there when PC is past the last
fetchable address; no host operation comes first (log entry 22). -/
def placeWord (w : Word) (s : State) : State :=
  let t : State := { s with pending := [], pc := if s.pc.toNat + 1 ≤ Config.memTop then s.pc else 0x200#16 }
  t.storeBytes t.pc.toNat [hiByte w, loByte w]

end Sys2Proof.Machine
end

