-- ==== Sys2Proof/Machine/Step.lean ====
section
/-! DEFINITION. The step of the machine, and the placing of an instruction where the step fetches. -/

namespace Sys2Proof.Machine

/-- One step: one operation, in the total order of spec/00_scope.md R4 (see `stepOp`). -/
def step (s : State) : Host.Outcome State Fault Refusal := stepOp s

/-- `s` with the instruction of the opcode table's word `w` stored where `step` fetches next (log entry 22). -/
def State.withFetchWord (s : State) (nbits w : Nat) : State := placeWord (BitVec.ofNat 16 (w % 2 ^ nbits)) s

end Sys2Proof.Machine
end

