-- ==== Sys2Proof/Safety.lean ====
section
/-! DEFINITION. The terms in which claims are stated: the parts of the state and what keeps them, what each instruction may
write, where a cycle leaves PC, what a store leaves where, which cycles fault, the invariant of the machine, and a safe run.
Each follows a table of the spec and calls no meaning. -/

namespace Sys2Proof.Machine

/-! ### Parts of the state and frames -/

/-- The parts of the state, one for each thing that can change on its own (spec/10_state.md). -/
inductive StatePart where
  | mem (a : Nat)
  | v (x : Reg)
  | i
  | pc
  | slot (k : Fin 16)
  | sp
  | cell (y : Fin 32) (x : Fin 64)
  | key (k : Fin 16)
  | dt
  | st
  | rdrw
  | tacc
  | font
  | shiftUsesVy
  | tickInterval
  | pending
  | freeCycles
  | rndFeed
  | rndDraws
  deriving DecidableEq, Repr

/-- Two states agree on a part. A part of memory is one byte, read as the machine reads it. -/
def StatePart.same (p : StatePart) (s t : State) : Prop :=
  match p with
  | .mem a => t.byteAt a = s.byteAt a
  | .v x => t.readV x = s.readV x
  | .i => t.i = s.i
  | .pc => t.pc = s.pc
  | .slot k => t.slot k = s.slot k
  | .sp => t.sp = s.sp
  | .cell y x => cellAt t.fb y x = cellAt s.fb y x
  | .key k => t.keyDown k = s.keyDown k
  | .dt => t.dt = s.dt
  | .st => t.st = s.st
  | .rdrw => t.rdrw = s.rdrw
  | .tacc => t.tacc = s.tacc
  | .font => t.font = s.font
  | .shiftUsesVy => t.shiftUsesVy = s.shiftUsesVy
  | .tickInterval => t.tickInterval = s.tickInterval
  | .pending => t.pending = s.pending
  | .freeCycles => t.freeCycles = s.freeCycles
  | .rndFeed => t.rndFeed = s.rndFeed
  | .rndDraws => t.rndDraws = s.rndDraws

/-- Every part outside `touched` is unchanged: registers, flags, stack, display, keys, timers and every byte of memory. -/
def KeepsAllBut (touched : StatePart → Prop) (s t : State) : Prop := ∀ p, ¬ touched p → p.same s t

/-- A byte of memory among the `len` bytes at `base`. -/
def StatePart.isMemIn (p : StatePart) (base len : Nat) : Prop := ∃ a, p = .mem a ∧ base ≤ a ∧ a < base + len

/-- A cell of the display. -/
def StatePart.isCell (p : StatePart) : Prop := ∃ y x, p = .cell y x

/-- What an instruction may write when it completes (spec/10_state.md section 10, R12, R14, R16 to R22), on a state whose PC
has been advanced. Nothing else changes. -/
def mayWrite (i : Instr) (s : State) (p : StatePart) : Prop :=
  match i with
  | .cls => p.isCell ∨ p = .rdrw
  | .ret => p = .pc ∨ p = .sp
  | .call _ => p = .pc ∨ p = .sp ∨ ∃ k : Fin 16, k.val = s.sp.val ∧ p = .slot k
  | .halt | .jp _ | .jpV0 _ | .seImm _ _ | .sneImm _ _ | .seReg _ _ | .sneReg _ _ | .skp _ | .sknp _ => p = .pc
  | .ldImm x _ | .addImm x _ | .ldReg x _ | .orReg x _ | .andReg x _ | .xorReg x _ | .ldVxDT x => p = .v x
  | .addReg x _ | .subReg x _ | .shr x _ | .subnReg x _ | .shl x _ => p = .v x ∨ p = .v vf
  | .rnd x _ => p = .v x ∨ p = .rndFeed ∨ p = .rndDraws
  | .drw _ _ _ => p.isCell ∨ p = .v vf ∨ p = .rdrw
  | .ldVxK x => p = .v x ∨ p = .pc
  | .ldDTVx _ => p = .dt
  | .ldSTVx _ => p = .st
  | .ldI _ | .addI _ | .ldF _ => p = .i
  | .ldB _ => p.isMemIn (s.indexed 0) 3
  | .storeRegs x => p.isMemIn (s.indexed 0) (x.val + 1)
  | .loadRegs x => ∃ k : Reg, k ≤ x ∧ p = .v k

/-! ### Words as the bit patterns of R61 and R68 -/

/-- The bits `{group, x, nn}`. -/
def wordXNN (group : BitVec 4) (x : Reg) (nn : Byte) : Word := (group ++ BitVec.ofFin (w := 4) x) ++ nn

/-- The bits `{group, x, y, n}`. -/
def wordXYN (group : BitVec 4) (x y : Reg) (n : BitVec 4) : Word :=
  (group ++ BitVec.ofFin (w := 4) x) ++ (BitVec.ofFin (w := 4) y ++ n)

/-- The bits `{group, nnn}`. -/
def wordNNN (group : BitVec 4) (nnn : Addr12) : Word := group ++ nnn

/-- What a cycle makes of the outcome of its instruction: the timer step after a completion, a stop as it is (R63). -/
def thenTimers (elapsed : Nat) : Result → Result
  | .next t => .next (timerStep elapsed t)
  | .fault f => .fault f
  | .refused r => .refused r

/-! ### Where a cycle leaves PC (R16) -/

/-- PC after an instruction that completes, from the state before the cycle (the table of R16). -/
def pcAfterInstr (i : Instr) (s : State) : Word :=
  match i with
  | .jp nnn | .call nnn => BitVec.ofNat 16 nnn.toNat
  | .ret => s.stk.toList.getD (s.sp.val - 1) 0
  | .jpV0 nnn => BitVec.ofNat 16 (nnn.toNat + (s.readV 0).toNat)
  | .halt => s.pc
  | .ldVxK _ => if (∃ k, s.keyDown k = true) then s.pc + 2#16 else s.pc
  | .seImm x nn => if s.readV x = nn then s.pc + 4#16 else s.pc + 2#16
  | .sneImm x nn => if s.readV x = nn then s.pc + 2#16 else s.pc + 4#16
  | .seReg x y => if s.readV x = s.readV y then s.pc + 4#16 else s.pc + 2#16
  | .sneReg x y => if s.readV x = s.readV y then s.pc + 2#16 else s.pc + 4#16
  | .skp x => if (∃ k : Fin 16, k.val = (s.readV x).toNat ∧ s.keyDown k = true) then s.pc + 4#16 else s.pc + 2#16
  | .sknp x => if (∃ k : Fin 16, k.val = (s.readV x).toNat ∧ s.keyDown k = true) then s.pc + 2#16 else s.pc + 4#16
  | .cls | .ldImm _ _ | .addImm _ _ | .ldReg _ _ | .orReg _ _ | .andReg _ _ | .xorReg _ _ | .addReg _ _ | .subReg _ _
  | .shr _ _ | .subnReg _ _ | .shl _ _ | .ldI _ | .rnd _ _ | .drw _ _ _ | .ldVxDT _ | .ldDTVx _ | .ldSTVx _ | .addI _
  | .ldF _ | .ldB _ | .storeRegs _ | .loadRegs _ => s.pc + 2#16

/-! ### Which cycles fault (R172 to R175, R178) -/

/-- The word at PC, as memory holds it (R43). -/
def wordAtPc (s : State) : Word := s.byteAt s.pc.toNat ++ s.byteAt (s.pc.toNat + 1)

/-- The byte that an instruction executed from this state stores at an address, if it stores one there (R153, R155): the three
decimal digits at `I`, or `V0` to `Vx` from `I` on. -/
def storedByte (i : Instr) (s : State) (a : Nat) : Option Byte :=
  match i with
  | .ldB x =>
    if a = s.i.toNat then some (BitVec.ofNat 8 ((s.readV x).toNat / 100))
    else if a = s.i.toNat + 1 then some (BitVec.ofNat 8 ((s.readV x).toNat / 10 % 10))
    else if a = s.i.toNat + 2 then some (BitVec.ofNat 8 ((s.readV x).toNat % 10))
    else none
  | .storeRegs x => if s.i.toNat ≤ a ∧ a ≤ s.i.toNat + x.val then s.v.toList[a - s.i.toNat]? else none
  | .cls | .ret | .halt | .jp _ | .call _ | .seImm _ _ | .sneImm _ _ | .seReg _ _ | .ldImm _ _ | .addImm _ _ | .ldReg _ _
  | .orReg _ _ | .andReg _ _ | .xorReg _ _ | .addReg _ _ | .subReg _ _ | .shr _ _ | .subnReg _ _ | .shl _ _ | .sneReg _ _
  | .ldI _ | .jpV0 _ | .rnd _ _ | .drw _ _ _ | .skp _ | .sknp _ | .ldVxDT _ | .ldVxK _ | .ldDTVx _ | .ldSTVx _ | .addI _
  | .ldF _ | .loadRegs _ => none

/-- The fault of a block access of `len` bytes at `I`, per the table of R174; `p` and `w` complete the record. -/
def blockFaultOf (s : State) (len : Nat) (access : Access) (w : Word) : Option Fault :=
  if len ≠ 0 ∧ 0x1000 < s.i.toNat + len then
    some (.memoryOutOfBounds s.pc (some w) (if s.i.toNat ≤ 0xFFF then 0x1000 else s.i.toNat) access)
  else none

/-- The fault of an instruction fetched as the word `w` at PC, by the conditions of R172 to R175. -/
def instrFaultOf (i : Instr) (w : Word) (s : State) : Option Fault :=
  match i with
  | .ret => if s.sp.val = 0 then some (.stackUnderflow s.pc w) else none
  | .call _ => if s.sp.val = 16 then some (.stackOverflow s.pc w) else none
  | .drw _ _ n => blockFaultOf s n .read w
  | .ldB _ => blockFaultOf s 3 .write w
  | .storeRegs x => blockFaultOf s (x.val + 1) .write w
  | .loadRegs x => blockFaultOf s (x.val + 1) .read w
  | .skp x | .sknp x =>
    if 0xF < (s.readV x).toNat then some (.keyIndexOutOfBounds s.pc w (s.readV x)) else none
  | .cls | .halt | .jp _ | .seImm _ _ | .sneImm _ _ | .seReg _ _ | .ldImm _ _ | .addImm _ _ | .ldReg _ _ | .orReg _ _
  | .andReg _ _ | .xorReg _ _ | .addReg _ _ | .subReg _ _ | .shr _ _ | .subnReg _ _ | .shl _ _ | .sneReg _ _ | .ldI _
  | .jpV0 _ | .rnd _ _ | .ldVxDT _ | .ldVxK _ | .ldDTVx _ | .ldSTVx _ | .addI _ | .ldF _ => none

/-- The fault of a cycle from this state, if it has one: the fetch first, then the instruction's own (R178). -/
def faultOf (s : State) : Option Fault :=
  if s.pc.toNat = 0xFFF then some (.memoryOutOfBounds s.pc none 0x1000 .fetch)
  else if 0xFFF < s.pc.toNat then some (.memoryOutOfBounds s.pc none s.pc.toNat .fetch)
  else
    match decode (wordAtPc s) with
    | .ok i => instrFaultOf i (wordAtPc s) s
    | .error _ => none

/-! ### The invariant of the machine -/

/-- What every step keeps. Memory is in its canonical form; the tick interval is positive and the accumulated time below it
(R3, R23); PC is at most 0x10FE (R16, R109); every live stack entry is a return address, 0x0002 to 0x1000 (R100, R103). -/
structure State.Inv (s : State) : Prop where
  memory_wf : s.memWf = true
  interval_pos : 0 < s.tickInterval
  tacc_lt : s.tacc < s.tickInterval
  pc_le : s.pc.toNat ≤ 0x10FE
  stack_range : ∀ k : Fin 16, k.val < s.sp.val → 2 ≤ (s.slot k).toNat ∧ (s.slot k).toNat ≤ 0x1000

/-! ### A safe run -/

/-- A run of `k` steps from `s` that meets no fault and no refusal; what a program must respect is spec/70 R215. -/
def SafeRun (k : Nat) (s : State) : Prop := ∃ t, Sys2Proof.core.run k s = .next t

end Sys2Proof.Machine
end

