-- ==== Sys2Proof/Certificates/Slice0/Obligations.lean ====
section
/-! DEFINITION. The statements for the provers. In a statement about `exec`, `s` is the state the instruction executes on: its PC
is already advanced, so `s.pc0` is the address of the instruction (spec/10_state.md R15). `KeepsAllBut parts s t` says that
every register, flag, stack slot, cell, key, timer and every byte of memory outside `parts` is unchanged. -/

open Sys2Proof Sys2Proof.Machine

/-! ### Encoding -/

/-- Words written out bit by bit from the patterns of R68, one or more for each family, decode to their instructions. That
0x5121, a word of group 5 with a low nibble other than 0, is an unknown word is the spec's decision D10 (log entry 14). -/
def Obligations.WrittenWordsDecode : Prop :=
  decode 0b0000000011100000#16 = .ok .cls ∧
  decode 0b0010101010111100#16 = .ok (.call 0xABC#12) ∧
  decode 0b0101000100100000#16 = .ok (.seReg 1 2) ∧
  decode 0b0110101001111111#16 = .ok (.ldImm 10 0x7F#8) ∧
  decode 0b1000000100101110#16 = .ok (.shl 1 2) ∧
  decode 0b1011001100000000#16 = .ok (.jpV0 0x300#12) ∧
  decode 0b1101000000011111#16 = .ok (.drw 0 1 15) ∧
  decode 0b1110001010100001#16 = .ok (.sknp 2) ∧
  decode 0b1111001100001010#16 = .ok (.ldVxK 3) ∧
  decode 0b1111010000000111#16 = .ok (.ldVxDT 4) ∧
  decode 0b1111001001010101#16 = .ok (.storeRegs 2) ∧
  decode 0b0101000100100001#16 = .error (.unknownGroup5 0x5121#16)

/-- Decoding the encoding of a well-formed instruction gives it back, from a word and from a list of bytes. -/
def Obligations.DecodeOfEncode : Prop :=
  ∀ (i : Instr) (rest : List Byte), i.wellFormed = true →
    decode (encode i) = .ok i ∧ decodeBytes (encodeBytes i ++ rest) = .ok (i, rest)

/-- What a word decodes to is well formed and encodes back to the word: no bit of a word is dropped. In groups 0, 5 and 9 it
rests on exact patterns, the spec's decision D10 (log entry 14): a decoder that took 01E0 or 5121 would drop bits there. -/
def Obligations.EncodeOfDecode : Prop :=
  ∀ (w : Word) (i : Instr), decode w = .ok i → i.wellFormed = true ∧ encode i = w

/-- The decoder follows the table of R68: no word is of two rows, a word decodes to an instruction of its row, and every
word of a row decodes. That groups 0, 5 and 9 match exactly is the spec's decision D10 (log entry 14). -/
def Obligations.DecoderFollowsOpcodeTable : Prop :=
  (∀ a ∈ opcodeTable, ∀ b ∈ opcodeTable, ∀ w : Word, matchesRow a w = true → matchesRow b w = true → a = b) ∧
  (∀ (w : Word) (i : Instr), decode w = .ok i → matchesRow i w = true ∧ ∃ a ∈ opcodeTable, rowOf a = rowOf i) ∧
  (∀ w : Word, (∃ a ∈ opcodeTable, matchesRow a w = true) → ∃ i, decode w = .ok i)

/-! ### The cycle and the step -/

/-- R70: the words of no row are exactly those of its table; a cycle that fetches one reports the diagnostic, changes
nothing but PC, which ends at `pc0 + 2`, and makes its timer step. That groups 0, 5 and 9 match exactly is the spec's
decision D10 (log entry 14). -/
def Obligations.UnknownOpcodeIsNoOp : Prop :=
  (∀ w : Word, (∀ a ∈ opcodeTable, matchesRow a w = false) ↔
    (w.toNat / 4096 = 0x0 ∧ w ≠ 0x0000#16 ∧ w ≠ 0x00E0#16 ∧ w ≠ 0x00EE#16) ∨
    (w.toNat / 4096 = 0x5 ∧ w.toNat % 16 ≠ 0) ∨
    (w.toNat / 4096 = 0x8 ∧ w.toNat % 16 ∈ [0x8, 0x9, 0xA, 0xB, 0xC, 0xD, 0xF]) ∨
    (w.toNat / 4096 = 0x9 ∧ w.toNat % 16 ≠ 0) ∨
    (w.toNat / 4096 = 0xE ∧ w.toNat % 256 ∉ [0x9E, 0xA1]) ∨
    (w.toNat / 4096 = 0xF ∧ w.toNat % 256 ∉ [0x07, 0x0A, 0x15, 0x18, 0x1E, 0x29, 0x33, 0x55, 0x65])) ∧
  (∀ (s : State) (e : Nat) (w : Word), fetch s = .ok w → (∀ a ∈ opcodeTable, matchesRow a w = false) →
    perform (.cycle e) s = (.okDiag w, timerStep e (s.setPc (s.pc + 2#16))))

/-- When the bytes at PC decode to a well-formed instruction, the step runs it: PC is advanced by 2, `exec` gives the outcome,
and after a completion the timer step follows, with the listed or (log entry 2) the free `elapsed_time`. -/
def Obligations.StepRunsDecodedInstruction : Prop :=
  ∀ (s : State) (i : Instr), s.pc.toNat + 1 ≤ 0xFFF → i.wellFormed = true →
    decodeBytes (s.bytesFrom s.pc.toNat 2) = .ok (i, []) →
    (s.pending = [] →
      step s = thenTimers (Config.freeElapsed s.freeCycles)
        (exec i { s with freeCycles := s.freeCycles + 1, pc := s.pc + 2#16 })) ∧
    (∀ (e : Nat) (ops : List HostOp), s.pending = .cycle e :: ops →
      step s = thenTimers e (exec i { s with pending := ops, pc := s.pc + 2#16 }))

/-- A step whose first pending operation is not a cycle performs that operation of the host and takes it off the list (the
model's choice: log entry 1). -/
def Obligations.StepPerformsPendingOperation : Prop :=
  ∀ (s : State) (op : HostOp) (ops : List HostOp), s.pending = op :: ops → (∀ e, op ≠ .cycle e) →
    step s = .next (perform op { s with pending := ops }).2

/-- R43: the fetch reads two bytes at PC, the one at the lower address the more significant; past 0xFFE it raises
`MemoryOutOfBounds` with the first address out of range. -/
def Obligations.FetchReadsBigEndianWord : Prop :=
  ∀ s : State,
    (s.pc.toNat ≤ 0xFFE → ∃ w, fetch s = .ok w ∧
      w.toNat = (s.byteAt s.pc.toNat).toNat * 256 + (s.byteAt (s.pc.toNat + 1)).toNat) ∧
    (s.pc.toNat = 0xFFF → fetch s = .error (.memoryOutOfBounds s.pc none (s.pc.toNat + 1) .fetch)) ∧
    (0xFFF < s.pc.toNat → fetch s = .error (.memoryOutOfBounds s.pc none s.pc.toNat .fetch))

/-- R41, R42: an access up to 0xFFF reads the byte or writes that byte and nothing else; an address above is not reduced and is
reported. On the path every instruction takes: `storeByte` writes the byte, `blockFault` tests a block before it is accessed
and reports the first address of it that is out of range, and a block that passes the test is written byte by byte and
nothing else is. (That a block of more than one byte is tested whole before any write is the spec's decision D12, log entry 19.) -/
def Obligations.MemoryAccessIsBounded : Prop :=
  ∀ (s : State) (a : Nat) (b : Byte), s.memWf = true →
    (a ≤ 0xFFF → s.memRead a = .ok (s.byteAt a) ∧ s.memWrite a b = .ok (s.storeByte a b) ∧ blockFault a 1 = none ∧
      (s.storeByte a b).byteAt a = b ∧ KeepsAllBut (fun p => p = .mem a) s (s.storeByte a b)) ∧
    (0xFFF < a → s.memRead a = .error a ∧ s.memWrite a b = .error a ∧ blockFault a 1 = some a) ∧
    (∀ len, blockFault a len = none ↔ ∀ k, k < len → a + k ≤ 0xFFF) ∧
    (∀ len c, blockFault a len = some c ↔
      (a ≤ c ∧ c < a + len ∧ 0xFFF < c ∧ ∀ d, a ≤ d → d < c → d ≤ 0xFFF)) ∧
    (∀ bs : List Byte, blockFault a bs.length = none →
      (∀ k, k < bs.length → (s.storeBytes a bs).byteAt (a + k) = bs.getD k 0#8) ∧
      KeepsAllBut (fun p => p.isMemIn a bs.length) s (s.storeBytes a bs))

/-- A cycle faults exactly when the tables of the spec say so, with exactly that record: the fetch first, then the one
fault of the instruction (address of the block: `max(I, 0x1000)`). What the record holds is the spec's decision D6 (log entry
9), the condition of the key codes D7 (log entry 15), that the fetch comes first and the lowest address is reported D27 (log
entries 16, 19). -/
def Obligations.CycleFaultsExactlyAsTabled : Prop :=
  ∀ (s : State) (e : Nat) (f : Fault), cycle e s = .fault f ↔ faultOf s = some f

/-- Every instruction has a meaning, so no execution, no cycle and no step is refused; and the fault of a register index
out of bounds is never raised (log entry 30). -/
def Obligations.NothingIsRefused : Prop :=
  (∀ (i : Instr) (s : State) (r : Refusal), exec i s ≠ .refused r) ∧
  (∀ (e : Nat) (s : State) (r : Refusal), cycle e s ≠ .refused r) ∧
  (∀ (s : State) (r : Refusal), step s ≠ .refused r) ∧
  (∀ (s : State) (p w : Word) (k : Nat), step s ≠ .fault (.registerIndexOutOfBounds p w k))

/-- A cycle that faults leaves the whole state as it was, PC and TACC too (the spec's decision D5, log entry 16), and its record
holds the address of the instruction, its word unless the fetch failed, and a code from 1, 2, 3, 5. -/
def Obligations.FaultLeavesNoTrace : Prop :=
  ∀ (s t : State) (e : Nat) (f : Fault), perform (.cycle e) s = (.fault f, t) →
    t = s ∧ f.address = s.pc ∧ f.code ∈ [1, 2, 3, 5] ∧
    ((∀ w, fetch s = .ok w → f.word? = some w) ∧ ((∀ w, fetch s ≠ .ok w) → f.word? = none))

/-- The same fault comes again, for ever: it depends on no key, no time and no random byte, and nothing is latched (the spec
derives it from D5; log entry 16). -/
def Obligations.FaultComesAgain : Prop :=
  ∀ (s : State) (e : Nat) (f : Fault), cycle e s = .fault f →
    (∀ (e' : Nat) (key : Vector Bool 16) (feed : List Byte) (draws : Nat),
      cycle e' { s with key := key, rndFeed := feed, rndDraws := draws } = .fault f) ∧
    (∀ times : List Nat, session (times.map HostOp.cycle) s = (times.map fun _ => .fault f, s))

/-- R16: where each cycle leaves PC; a cycle that faults leaves it at `pc0` (that last row is the spec's decision D5, log
entry 16; modulo 65536 is D28, log entry 26). -/
def Obligations.CycleLeavesPcAsTabled : Prop :=
  (∀ (s t : State) (e : Nat), cycle e s = .next t →
    (∀ i, decode (wordAtPc s) = .ok i → t.pc = pcAfterInstr i s) ∧
    (∀ r, decode (wordAtPc s) = .error r → t.pc = s.pc + 2#16)) ∧
  (∀ (s t : State) (e : Nat) (f : Fault), perform (.cycle e) s = (.fault f, t) → t.pc = s.pc)

/-! ### Timers -/

/-- `k` ticks leave `DT = max(0, DT - k)` and `ST = max(0, ST - k)`, and change nothing else (R186). The timer step is the ticks of
the whole intervals of `TACC + elapsed_time`, the rest kept (R187, which is the spec's decisions D3 and D4, log entry 21). -/
def Obligations.TicksStopAtZero : Prop :=
  (∀ (k : Nat) (s : State),
    (timerTick^[k] s).dt.toNat = s.dt.toNat - k ∧ (timerTick^[k] s).st.toNat = s.st.toNat - k ∧
    KeepsAllBut (fun p => p = .dt ∨ p = .st) s (timerTick^[k] s)) ∧
  (∀ (e : Nat) (s : State), timerStep e s =
    { timerTick^[(s.tacc + e) / s.tickInterval] s with tacc := (s.tacc + e) % s.tickInterval })

/-- Every completed cycle makes the timer step after its instruction: `k` ticks for the whole intervals in `TACC + elapsed_time`,
the rest kept (the spec's decisions D3, D4, log entry 21); a value just written to a timer is ticked too, and `LD Vx, DT` reads
DT before the ticks. -/
def Obligations.TimerStepFollowsInstruction : Prop :=
  ∀ (s t : State) (e : Nat), cycle e s = .next t →
    t.tacc = (s.tacc + e) % s.tickInterval ∧
    ((∀ x, decode (wordAtPc s) ≠ .ok (.ldDTVx x)) → t.dt.toNat = s.dt.toNat - (s.tacc + e) / s.tickInterval) ∧
    (∀ x, decode (wordAtPc s) = .ok (.ldDTVx x) → t.dt.toNat = (s.readV x).toNat - (s.tacc + e) / s.tickInterval) ∧
    ((∀ x, decode (wordAtPc s) ≠ .ok (.ldSTVx x)) → t.st.toNat = s.st.toNat - (s.tacc + e) / s.tickInterval) ∧
    (∀ x, decode (wordAtPc s) = .ok (.ldSTVx x) → t.st.toNat = (s.readV x).toNat - (s.tacc + e) / s.tickInterval) ∧
    (∀ x, decode (wordAtPc s) = .ok (.ldVxDT x) → t.readV x = s.dt)

/-! ### Control flow -/

/-- `RET` pops PC; on an empty stack it faults with `StackUnderflow` (R100). That the faulting cycle changes nothing is the spec's
decision D5 (log entry 16), that the popped slot keeps its value D24 (log entry 10). -/
def Obligations.ReturnPopsPc : Prop :=
  decode 0x00EE#16 = .ok .ret ∧
  ∀ s : State,
    (s.sp.val = 0 → exec .ret s = .fault (.stackUnderflow s.pc0 0x00EE#16)) ∧
    (∀ k : Fin 16, s.sp.val = k.val + 1 → ∃ t, exec .ret s = .next t ∧ t.sp.val = k.val ∧ t.pc = s.slot k ∧
      KeepsAllBut (fun p => p = .pc ∨ p = .sp) s t) ∧
    (∀ e, fetch s = .ok 0x00EE#16 → s.sp.val = 0 →
      perform (.cycle e) s = (.fault (.stackUnderflow s.pc 0x00EE#16), s))

/-- R101: `HALT` takes PC back to itself and changes nothing else; its cycle is a timer step and nothing more, without a
diagnostic. -/
def Obligations.HaltReexecutesItself : Prop :=
  decode 0x0000#16 = .ok .halt ∧
  (∀ s : State, ∃ t, exec .halt s = .next t ∧ t.pc = s.pc - 2#16 ∧ KeepsAllBut (fun p => p = .pc) s t) ∧
  (∀ (s : State) (e : Nat), fetch s = .ok 0x0000#16 → perform (.cycle e) s = (.ok, timerStep e s))

/-- A run of cycles on a `HALT` word meets no fault and stays there, for any number of steps and whatever time passes: the listed
cycles, with their times, and then cycles whose time is a free value. That the pending list says which operations come, and
that cycles follow when it is empty, is the model's choice (log entries 1, 2); an operation of the host other than a cycle
may end the wait. -/
def Obligations.HaltedMachineStaysHalted : Prop :=
  ∀ (k : Nat) (s : State), (∀ op ∈ s.pending, ∃ e, op = .cycle e) → s.pc.toNat ≤ 0xFFE → wordAtPc s = 0x0000#16 →
    ∃ t, Sys2Proof.core.run k s = .next t ∧ t.pending = s.pending.drop k ∧
      KeepsAllBut (fun p => p = .dt ∨ p = .st ∨ p = .tacc ∨ p = .freeCycles ∨ p = .pending) s t

/-- R102: `JP nnn`. -/
def Obligations.JumpSetsPc : Prop :=
  ∀ (nnn : Addr12) (s : State), decode (wordNNN 0x1#4 nnn) = .ok (.jp nnn) ∧
    ∃ t, exec (.jp nnn) s = .next t ∧ t.pc.toNat = nnn.toNat ∧ KeepsAllBut (fun p => p = .pc) s t

/-- R109: `JP V0, nnn`; the sum is not reduced to 12 bits. -/
def Obligations.JumpV0AddsV0 : Prop :=
  ∀ (nnn : Addr12) (s : State), decode (wordNNN 0xB#4 nnn) = .ok (.jpV0 nnn) ∧
    ∃ t, exec (.jpV0 nnn) s = .next t ∧ t.pc.toNat = nnn.toNat + (s.readV 0).toNat ∧ KeepsAllBut (fun p => p = .pc) s t

/-- `CALL nnn` pushes the advanced PC; with sixteen entries it faults with `StackOverflow` (R103). That the faulting cycle changes
nothing is the spec's decision D5 (log entry 16). -/
def Obligations.CallPushesAdvancedPc : Prop :=
  ∀ (nnn : Addr12) (s : State), decode (wordNNN 0x2#4 nnn) = .ok (.call nnn) ∧
    (s.sp.val = 16 → exec (.call nnn) s = .fault (.stackOverflow s.pc0 (wordNNN 0x2#4 nnn))) ∧
    (∀ k : Fin 16, s.sp.val = k.val → ∃ t, exec (.call nnn) s = .next t ∧
      t.slot k = s.pc ∧ t.sp.val = k.val + 1 ∧ t.pc.toNat = nnn.toNat ∧
      KeepsAllBut (fun p => p = .pc ∨ p = .sp ∨ p = .slot k) s t) ∧
    (∀ e, fetch s = .ok (wordNNN 0x2#4 nnn) → s.sp.val = 16 →
      perform (.cycle e) s = (.fault (.stackOverflow s.pc (wordNNN 0x2#4 nnn)), s))

/-- A `CALL` whose target holds `RET` comes back to the address after the call, with the stack as deep as before. -/
def Obligations.CallThenReturnComesBack : Prop :=
  ∀ (s : State) (nnn : Addr12) (k : Fin 16) (e e' : Nat), s.pc.toNat ≤ 0xFFE →
    decode (wordAtPc s) = .ok (.call nnn) → s.sp.val = k.val → nnn.toNat ≤ 0xFFE →
    s.byteAt nnn.toNat = 0x00#8 → s.byteAt (nnn.toNat + 1) = 0xEE#8 →
    ∃ t u, cycle e s = .next t ∧ cycle e' t = .next u ∧ u.pc = s.pc + 2#16 ∧
      KeepsAllBut (fun p => p = .pc ∨ p = .slot k ∨ p = .dt ∨ p = .st ∨ p = .tacc) s u

/-- R104, R105, R108: the skips on an immediate. -/
def Obligations.ImmediateSkips : Prop :=
  ∀ (x : Reg) (nn : Byte) (s : State),
    decode (wordXNN 0x3#4 x nn) = .ok (.seImm x nn) ∧ decode (wordXNN 0x4#4 x nn) = .ok (.sneImm x nn) ∧
    (∃ t, exec (.seImm x nn) s = .next t ∧ t.pc = (if s.readV x = nn then s.pc + 2#16 else s.pc) ∧
      KeepsAllBut (fun p => p = .pc) s t) ∧
    (∃ t, exec (.sneImm x nn) s = .next t ∧ t.pc = (if s.readV x = nn then s.pc else s.pc + 2#16) ∧
      KeepsAllBut (fun p => p = .pc) s t)

/-- R106, R107: the skips on two registers. (That 5xyN and 9xyN with another low nibble are unknown words is D10, log entry 14, and
is said by `UnknownOpcodeIsNoOp`.) -/
def Obligations.RegisterSkips : Prop :=
  ∀ (x y : Reg) (s : State),
    decode (wordXYN 0x5#4 x y 0x0#4) = .ok (.seReg x y) ∧ decode (wordXYN 0x9#4 x y 0x0#4) = .ok (.sneReg x y) ∧
    (∃ t, exec (.seReg x y) s = .next t ∧ t.pc = (if s.readV x = s.readV y then s.pc + 2#16 else s.pc) ∧
      KeepsAllBut (fun p => p = .pc) s t) ∧
    (∃ t, exec (.sneReg x y) s = .next t ∧ t.pc = (if s.readV x = s.readV y then s.pc else s.pc + 2#16) ∧
      KeepsAllBut (fun p => p = .pc) s t)

/-! ### Arithmetic and logic -/

/-- R120: `LD Vx, nn` leaves `Vx` equal to `nn` and no other register changed, VF included unless it is `Vx`. -/
def Obligations.LoadImmediateSetsVx : Prop :=
  ∀ (x : Reg) (nn : Byte) (s : State), decode (wordXNN 0x6#4 x nn) = .ok (.ldImm x nn) ∧
    ∃ t, exec (.ldImm x nn) s = .next t ∧ t.readV x = nn ∧ KeepsAllBut (fun p => p = .v x) s t

/-- R121: `ADD Vx, nn` adds modulo 256 and writes no flag. -/
def Obligations.AddImmediateWritesNoFlag : Prop :=
  ∀ (x : Reg) (nn : Byte) (s : State), decode (wordXNN 0x7#4 x nn) = .ok (.addImm x nn) ∧
    ∃ t, exec (.addImm x nn) s = .next t ∧ (t.readV x).toNat = ((s.readV x).toNat + nn.toNat) % 256 ∧
      KeepsAllBut (fun p => p = .v x) s t

/-- R122 to R125: `LD`, `OR`, `AND`, `XOR` of two registers write `Vx`, bit by bit, and no flag. -/
def Obligations.MoveAndLogicWriteNoFlag : Prop :=
  ∀ (x y : Reg) (s : State),
    decode (wordXYN 0x8#4 x y 0x0#4) = .ok (.ldReg x y) ∧ decode (wordXYN 0x8#4 x y 0x1#4) = .ok (.orReg x y) ∧
    decode (wordXYN 0x8#4 x y 0x2#4) = .ok (.andReg x y) ∧ decode (wordXYN 0x8#4 x y 0x3#4) = .ok (.xorReg x y) ∧
    (∃ t, exec (.ldReg x y) s = .next t ∧ t.readV x = s.readV y ∧ KeepsAllBut (fun p => p = .v x) s t) ∧
    (∃ t, exec (.orReg x y) s = .next t ∧
      (∀ k, (t.readV x).getLsbD k = ((s.readV x).getLsbD k || (s.readV y).getLsbD k)) ∧
      KeepsAllBut (fun p => p = .v x) s t) ∧
    (∃ t, exec (.andReg x y) s = .next t ∧
      (∀ k, (t.readV x).getLsbD k = ((s.readV x).getLsbD k && (s.readV y).getLsbD k)) ∧
      KeepsAllBut (fun p => p = .v x) s t) ∧
    (∃ t, exec (.xorReg x y) s = .next t ∧
      (∀ k, (t.readV x).getLsbD k = Bool.xor ((s.readV x).getLsbD k) ((s.readV y).getLsbD k)) ∧
      KeepsAllBut (fun p => p = .v x) s t)

/-- `ADD Vx, Vy`: the sum modulo 256 and VF the carry of the unreduced sum; with `x = 0xF` VF ends as the flag (that clause
is the spec's decision D11, log entry 13). -/
def Obligations.AddSetsCarry : Prop :=
  ∀ (x y : Reg) (s : State), decode (wordXYN 0x8#4 x y 0x4#4) = .ok (.addReg x y) ∧
    ∃ t, exec (.addReg x y) s = .next t ∧
      t.readV vf = (if 255 < (s.readV x).toNat + (s.readV y).toNat then 1#8 else 0#8) ∧
      (x ≠ vf → (t.readV x).toNat = ((s.readV x).toNat + (s.readV y).toNat) % 256) ∧
      KeepsAllBut (fun p => p = .v x ∨ p = .v vf) s t

/-- `SUB` and `SUBN`: the difference modulo 256 and VF the STRICT comparison, 0 for equal operands; with `x = 0xF` VF ends as
the flag (that clause is the spec's decision D11, log entry 13). -/
def Obligations.SubtractSetsStrictGreater : Prop :=
  ∀ (x y : Reg) (s : State),
    decode (wordXYN 0x8#4 x y 0x5#4) = .ok (.subReg x y) ∧ decode (wordXYN 0x8#4 x y 0x7#4) = .ok (.subnReg x y) ∧
    (∃ t, exec (.subReg x y) s = .next t ∧
      t.readV vf = (if (s.readV y).toNat < (s.readV x).toNat then 1#8 else 0#8) ∧
      (x ≠ vf → ((t.readV x).toNat + (s.readV y).toNat) % 256 = (s.readV x).toNat) ∧
      KeepsAllBut (fun p => p = .v x ∨ p = .v vf) s t) ∧
    (∃ t, exec (.subnReg x y) s = .next t ∧
      t.readV vf = (if (s.readV x).toNat < (s.readV y).toNat then 1#8 else 0#8) ∧
      (x ≠ vf → ((t.readV x).toNat + (s.readV x).toNat) % 256 = (s.readV y).toNat) ∧
      KeepsAllBut (fun p => p = .v x ∨ p = .v vf) s t)

/-- `SHR` and `SHL`: the source shifted by one and VF the bit shifted out. The source is `Vx`, or `Vy` when `SHIFT_USES_VY` is
set (that form is the spec's decision D17, log entry 24); with `x = 0xF` VF ends as the flag (D11, log entry 13). -/
def Obligations.ShiftsSetBitShiftedOut : Prop :=
  ∀ (x y : Reg) (s : State) (src : Byte), src = (if s.shiftUsesVy = true then s.readV y else s.readV x) →
    decode (wordXYN 0x8#4 x y 0x6#4) = .ok (.shr x y) ∧ decode (wordXYN 0x8#4 x y 0xE#4) = .ok (.shl x y) ∧
    (∃ t, exec (.shr x y) s = .next t ∧ (t.readV vf).toNat = src.toNat % 2 ∧
      (x ≠ vf → (t.readV x).toNat = src.toNat / 2) ∧ KeepsAllBut (fun p => p = .v x ∨ p = .v vf) s t) ∧
    (∃ t, exec (.shl x y) s = .next t ∧ (t.readV vf).toNat = src.toNat / 128 ∧
      (x ≠ vf → (t.readV x).toNat = src.toNat * 2 % 256) ∧ KeepsAllBut (fun p => p = .v x ∨ p = .v vf) s t)

/-- `RND Vx, nn`: the next byte of the random source, masked. Where the source has been given no byte, it is the free value of this
draw, and the next draw takes another one: a fresh value for each execution, under no law (R131; the spec's decision D18, log
entry 3; nothing here rests on what the free value is). -/
def Obligations.RandomIsMasked : Prop :=
  ∀ (x : Reg) (nn : Byte) (s : State), decode (wordXNN 0xC#4 x nn) = .ok (.rnd x nn) ∧
    (∀ (b : Byte) (bs : List Byte), s.rndFeed = b :: bs → ∃ t, exec (.rnd x nn) s = .next t ∧
      t.readV x = b &&& nn ∧ t.rndFeed = bs ∧ KeepsAllBut (fun p => p = .v x ∨ p = .rndFeed) s t) ∧
    (s.rndFeed = [] → ∃ t, exec (.rnd x nn) s = .next t ∧
      t.readV x = Config.freeRnd s.rndDraws &&& nn ∧ t.rndDraws = s.rndDraws + 1 ∧
      KeepsAllBut (fun p => p = .v x ∨ p = .rndDraws) s t)

/-! ### Keyboard and timers -/

/-- `SKP` and `SKNP`: skip by the key whose code is the whole byte `Vx`; a byte above 0xF faults with `KeyIndexOutOfBounds` (the
fault is the spec's decision D7, log entry 15). -/
def Obligations.KeySkips : Prop :=
  ∀ (x : Reg) (s : State),
    decode (wordXNN 0xE#4 x 0x9E#8) = .ok (.skp x) ∧ decode (wordXNN 0xE#4 x 0xA1#8) = .ok (.sknp x) ∧
    (∀ k : Fin 16, (s.readV x).toNat = k.val →
      (∃ t, exec (.skp x) s = .next t ∧ t.pc = (if s.keyDown k = true then s.pc + 2#16 else s.pc) ∧
        KeepsAllBut (fun p => p = .pc) s t) ∧
      (∃ t, exec (.sknp x) s = .next t ∧ t.pc = (if s.keyDown k = true then s.pc else s.pc + 2#16) ∧
        KeepsAllBut (fun p => p = .pc) s t)) ∧
    (0xF < (s.readV x).toNat →
      exec (.skp x) s = .fault (.keyIndexOutOfBounds s.pc0 (wordXNN 0xE#4 x 0x9E#8) (s.readV x)) ∧
      exec (.sknp x) s = .fault (.keyIndexOutOfBounds s.pc0 (wordXNN 0xE#4 x 0xA1#8) (s.readV x)))

/-- R142: `LD Vx, K` takes the least pressed key; with none pressed it re-executes, and its cycle is a timer step and nothing
more. -/
def Obligations.KeyWaitTakesLeastKey : Prop :=
  ∀ (x : Reg) (s : State), decode (wordXNN 0xF#4 x 0x0A#8) = .ok (.ldVxK x) ∧
    (∀ k : Fin 16, s.keyDown k = true → (∀ j : Fin 16, j < k → s.keyDown j = false) →
      ∃ t, exec (.ldVxK x) s = .next t ∧ (t.readV x).toNat = k.val ∧ KeepsAllBut (fun p => p = .v x) s t) ∧
    ((∀ k : Fin 16, s.keyDown k = false) →
      (∃ t, exec (.ldVxK x) s = .next t ∧ t.pc = s.pc - 2#16 ∧ KeepsAllBut (fun p => p = .pc) s t) ∧
      (∀ e, fetch s = .ok (wordXNN 0xF#4 x 0x0A#8) → perform (.cycle e) s = (.ok, timerStep e s)))

/-- The timer moves (R143 to R145). In a cycle, `LD Vx, DT` reads DT before the timer step, and a value written to a timer is
subject to the timer step of the same cycle. That a cycle's `k` ticks are the whole intervals of `TACC + elapsed_time` is R187,
the spec's decisions D3 and D4 (log entry 21). -/
def Obligations.TimerMoves : Prop :=
  ∀ (x : Reg) (s : State),
    decode (wordXNN 0xF#4 x 0x07#8) = .ok (.ldVxDT x) ∧ decode (wordXNN 0xF#4 x 0x15#8) = .ok (.ldDTVx x) ∧
    decode (wordXNN 0xF#4 x 0x18#8) = .ok (.ldSTVx x) ∧
    (∃ t, exec (.ldVxDT x) s = .next t ∧ t.readV x = s.dt ∧ KeepsAllBut (fun p => p = .v x) s t) ∧
    (∃ t, exec (.ldDTVx x) s = .next t ∧ t.dt = s.readV x ∧ KeepsAllBut (fun p => p = .dt) s t) ∧
    (∃ t, exec (.ldSTVx x) s = .next t ∧ t.st = s.readV x ∧ KeepsAllBut (fun p => p = .st) s t) ∧
    (∀ e k, k = (s.tacc + e) / s.tickInterval →
      (fetch s = .ok (wordXNN 0xF#4 x 0x07#8) → ∃ t, cycle e s = .next t ∧ t.readV x = s.dt) ∧
      (fetch s = .ok (wordXNN 0xF#4 x 0x15#8) → ∃ t, cycle e s = .next t ∧ t.dt.toNat = (s.readV x).toNat - k) ∧
      (fetch s = .ok (wordXNN 0xF#4 x 0x18#8) → ∃ t, cycle e s = .next t ∧ t.st.toNat = (s.readV x).toNat - k))

/-! ### Index register and memory -/

/-- R150, R152: `LD I, nnn`, and `LD F, Vx` with the whole byte times 5. -/
def Obligations.IndexLoads : Prop :=
  (∀ (nnn : Addr12) (s : State), decode (wordNNN 0xA#4 nnn) = .ok (.ldI nnn) ∧
    ∃ t, exec (.ldI nnn) s = .next t ∧ t.i.toNat = nnn.toNat ∧ KeepsAllBut (fun p => p = .i) s t) ∧
  (∀ (x : Reg) (s : State), decode (wordXNN 0xF#4 x 0x29#8) = .ok (.ldF x) ∧
    ∃ t, exec (.ldF x) s = .next t ∧ t.i.toNat = (s.readV x).toNat * 5 ∧ KeepsAllBut (fun p => p = .i) s t)

/-- `ADD I, Vx` modulo 65536, not masked to 12 bits, no flag (the wrap at 0x10000 is the spec's decision D8, log entry 12). -/
def Obligations.AddIndexWritesNoFlag : Prop :=
  ∀ (x : Reg) (s : State), decode (wordXNN 0xF#4 x 0x1E#8) = .ok (.addI x) ∧
    ∃ t, exec (.addI x) s = .next t ∧ t.i.toNat = (s.i.toNat + (s.readV x).toNat) % 65536 ∧
      KeepsAllBut (fun p => p = .i) s t

/-- `LD B, Vx`: the decimal digits at `I`, `I+1`, `I+2`, `I` unchanged; out of memory it faults with the lowest bad address and
writes nothing (the spec's decisions D12, D13, log entries 19, 20). -/
def Obligations.BcdStoresThreeDigits : Prop :=
  ∀ (x : Reg) (s : State), s.memWf = true → decode (wordXNN 0xF#4 x 0x33#8) = .ok (.ldB x) ∧
    (s.i.toNat + 2 ≤ 0xFFF → ∃ t, exec (.ldB x) s = .next t ∧
      (t.byteAt (s.indexed 0)).toNat = (s.readV x).toNat / 100 ∧
      (t.byteAt (s.indexed 1)).toNat = (s.readV x).toNat / 10 % 10 ∧
      (t.byteAt (s.indexed 2)).toNat = (s.readV x).toNat % 10 ∧
      KeepsAllBut (fun p => p.isMemIn (s.indexed 0) 3) s t) ∧
    (0xFFF < s.i.toNat + 2 → exec (.ldB x) s =
      .fault (.memoryOutOfBounds s.pc0 (some (wordXNN 0xF#4 x 0x33#8)) (max s.i.toNat 0x1000) .write))

/-- `LD [I], Vx`: `V0` to `Vx` inclusive at `I`, `I` unchanged, every other byte as before; out of memory it faults with the lowest
bad address and writes nothing (the spec's decisions D12, D13, log entries 19, 20). -/
def Obligations.StoreBlockWritesRegisters : Prop :=
  ∀ (x : Reg) (s : State), s.memWf = true → decode (wordXNN 0xF#4 x 0x55#8) = .ok (.storeRegs x) ∧
    (s.i.toNat + x.val ≤ 0xFFF → ∃ t, exec (.storeRegs x) s = .next t ∧
      (∀ k : Reg, k ≤ x → t.byteAt (s.indexed k.val) = s.readV k) ∧
      KeepsAllBut (fun p => p.isMemIn (s.indexed 0) (x.val + 1)) s t) ∧
    (0xFFF < s.i.toNat + x.val → exec (.storeRegs x) s =
      .fault (.memoryOutOfBounds s.pc0 (some (wordXNN 0xF#4 x 0x55#8)) (max s.i.toNat 0x1000) .write))

/-- `LD Vx, [I]`: `V0` to `Vx` inclusive from `I`, the registers above and `I` unchanged; out of memory it faults with the lowest
bad address and loads nothing (the spec's decisions D12, D13, log entries 19, 20). -/
def Obligations.LoadBlockReadsMemory : Prop :=
  ∀ (x : Reg) (s : State), decode (wordXNN 0xF#4 x 0x65#8) = .ok (.loadRegs x) ∧
    (s.i.toNat + x.val ≤ 0xFFF → ∃ t, exec (.loadRegs x) s = .next t ∧
      (∀ k : Reg, k ≤ x → t.readV k = s.byteAt (s.indexed k.val)) ∧
      KeepsAllBut (fun p => ∃ k : Reg, k ≤ x ∧ p = .v k) s t) ∧
    (0xFFF < s.i.toNat + x.val → exec (.loadRegs x) s =
      .fault (.memoryOutOfBounds s.pc0 (some (wordXNN 0xF#4 x 0x65#8)) (max s.i.toNat 0x1000) .read))

/-- Registers stored by `LD [I], Vx` come back by `LD Vx, [I]`, whatever the registers held in between: true because the store
leaves `I` unchanged, the spec's decision D13 (log entry 20). -/
def Obligations.StoreThenLoadRestoresRegisters : Prop :=
  ∀ (x : Reg) (s t : State) (v' : Vector Byte 16), s.memWf = true → exec (.storeRegs x) s = .next t →
    ∃ u, exec (.loadRegs x) { t with v := v' } = .next u ∧
      (∀ k : Reg, k ≤ x → u.readV k = s.readV k) ∧ KeepsAllBut (fun p => ∃ k : Reg, k ≤ x ∧ p = .v k) { t with v := v' } u

/-- R53: the very next fetch, wherever PC now points, reads memory as the instruction left it: each of its two bytes is the byte
that `LD B, Vx` or `LD [I], Vx` stored there, if it stored one, and else the byte of before. -/
def Obligations.StoreIsSeenByNextFetch : Prop :=
  ∀ (i : Instr) (s t : State) (e : Nat), s.memWf = true → cycle e s = .next t → decode (wordAtPc s) = .ok i →
    t.pc.toNat ≤ 0xFFE →
    fetch t = .ok ((storedByte i s t.pc.toNat).getD (s.byteAt t.pc.toNat) ++
      (storedByte i s (t.pc.toNat + 1)).getD (s.byteAt (t.pc.toNat + 1)))

/-! ### Display -/

/-- R160: `CLS` unsets every cell and sets the redraw flag, even on a blank display; VF is not touched. -/
def Obligations.ClearUnsetsEveryCell : Prop :=
  decode 0x00E0#16 = .ok .cls ∧
  ∀ s : State, ∃ t, exec .cls s = .next t ∧ (∀ y x, cellAt t.fb y x = false) ∧ t.rdrw = true ∧
    KeepsAllBut (fun p => p.isCell ∨ p = .rdrw) s t

/-- `DRW`: the cell under each sprite bit is XORed with it, coordinates wrapped separately, every other cell unchanged; VF is 1
exactly when a set cell is turned off; the redraw flag is set; out of memory it faults and writes nothing. That bit 7 is the
leftmost is the spec's decision D22 (log entry 7), that coordinates are sampled first D11 (log entry 13), that nothing is
written on a fault D12 (log entry 19). -/
def Obligations.DrawXorsSprite : Prop :=
  ∀ (x y : Reg) (n : Fin 16) (s : State),
    decode (wordXYN 0xD#4 x y (BitVec.ofFin (w := 4) n)) = .ok (.drw x y n.val) ∧
    (n.val = 0 ∨ s.i.toNat + n.val ≤ 0x1000 → ∃ t, exec (.drw x y n.val) s = .next t ∧
      (∀ (r : Fin 32) (c : Fin 64) (row col : Nat), row < n.val → col < 8 →
        r.val = ((s.readV y).toNat + row) % 32 → c.val = ((s.readV x).toNat + col) % 64 →
        cellAt t.fb r c = Bool.xor (cellAt s.fb r c) ((s.byteAt (s.indexed row)).getLsbD (7 - col))) ∧
      (∀ (r : Fin 32) (c : Fin 64),
        (∀ row col : Nat, row < n.val → col < 8 →
          r.val = ((s.readV y).toNat + row) % 32 → c.val ≠ ((s.readV x).toNat + col) % 64) →
        cellAt t.fb r c = cellAt s.fb r c) ∧
      ((∃ (r : Fin 32) (c : Fin 64) (row col : Nat), row < n.val ∧ col < 8 ∧
          r.val = ((s.readV y).toNat + row) % 32 ∧ c.val = ((s.readV x).toNat + col) % 64 ∧
          (s.byteAt (s.indexed row)).getLsbD (7 - col) = true ∧ cellAt s.fb r c = true) → t.readV vf = 1#8) ∧
      ((∀ (r : Fin 32) (c : Fin 64) (row col : Nat), row < n.val → col < 8 →
          r.val = ((s.readV y).toNat + row) % 32 → c.val = ((s.readV x).toNat + col) % 64 →
          (s.byteAt (s.indexed row)).getLsbD (7 - col) = true → cellAt s.fb r c = false) → t.readV vf = 0#8) ∧
      t.rdrw = true ∧ KeepsAllBut (fun p => p.isCell ∨ p = .v vf ∨ p = .rdrw) s t) ∧
    (n.val ≠ 0 → 0x1000 < s.i.toNat + n.val → exec (.drw x y n.val) s =
      .fault (.memoryOutOfBounds s.pc0 (some (wordXYN 0xD#4 x y (BitVec.ofFin (w := 4) n))) (max s.i.toNat 0x1000) .read))

/-- Drawing the same sprite twice at the same place restores every cell, and the second draw reports a collision exactly when the
sprite has a set bit over a cell that was unset before the first (spec/90_conflicts.md C2; bit 7 is the leftmost by D22, log
entry 7). VF is not a coordinate here: the first draw writes it. -/
def Obligations.DrawingTwiceRestoresDisplay : Prop :=
  ∀ (x y : Reg) (n : Fin 16) (s t : State), x ≠ vf → y ≠ vf → exec (.drw x y n.val) s = .next t →
    ∃ u, exec (.drw x y n.val) t = .next u ∧ (∀ r c, cellAt u.fb r c = cellAt s.fb r c) ∧
      (u.readV vf = 1#8 ↔ ∃ (r : Fin 32) (c : Fin 64) (row col : Nat), row < n.val ∧ col < 8 ∧
        r.val = ((s.readV y).toNat + row) % 32 ∧ c.val = ((s.readV x).toNat + col) % 64 ∧
        (s.byteAt (s.indexed row)).getLsbD (7 - col) = true ∧ cellAt s.fb r c = false)

/-! ### Reset and the operations of the host -/

/-- The state after reset, part by part. FB, KEY, RDRW and TACC are the spec's decision D14 (log entry 11), the 80 font bytes the
default of R45, from general knowledge (D2, log entry 6), `SHIFT_USES_VY` its default (log entry 5). -/
def Obligations.ResetStateAsListed : Prop :=
  State.reset.bytesFrom 0 80 =
    [0xF0#8, 0x90#8, 0x90#8, 0x90#8, 0xF0#8] ++ [0x20#8, 0x60#8, 0x20#8, 0x20#8, 0x70#8] ++
    [0xF0#8, 0x10#8, 0xF0#8, 0x80#8, 0xF0#8] ++ [0xF0#8, 0x10#8, 0xF0#8, 0x10#8, 0xF0#8] ++
    [0x90#8, 0x90#8, 0xF0#8, 0x10#8, 0x10#8] ++ [0xF0#8, 0x80#8, 0xF0#8, 0x10#8, 0xF0#8] ++
    [0xF0#8, 0x80#8, 0xF0#8, 0x90#8, 0xF0#8] ++ [0xF0#8, 0x10#8, 0x20#8, 0x40#8, 0x40#8] ++
    [0xF0#8, 0x90#8, 0xF0#8, 0x90#8, 0xF0#8] ++ [0xF0#8, 0x90#8, 0xF0#8, 0x10#8, 0xF0#8] ++
    [0xF0#8, 0x90#8, 0xF0#8, 0x90#8, 0x90#8] ++ [0xE0#8, 0x90#8, 0xE0#8, 0x90#8, 0xE0#8] ++
    [0xF0#8, 0x80#8, 0x80#8, 0x80#8, 0xF0#8] ++ [0xE0#8, 0x90#8, 0x90#8, 0x90#8, 0xE0#8] ++
    [0xF0#8, 0x80#8, 0xF0#8, 0x80#8, 0xF0#8] ++ [0xF0#8, 0x80#8, 0xF0#8, 0x80#8, 0x80#8] ∧
  State.reset.font.toList = State.reset.bytesFrom 0 80 ∧ (∀ a, 80 ≤ a → State.reset.byteAt a = 0#8) ∧
  (∀ x, State.reset.readV x = 0#8) ∧ State.reset.i = 0#16 ∧ State.reset.pc = 0x200#16 ∧ State.reset.sp.val = 0 ∧
  State.reset.dt = 0#8 ∧ State.reset.st = 0#8 ∧ (∀ y x, cellAt State.reset.fb y x = false) ∧
  (∀ k, State.reset.keyDown k = false) ∧ State.reset.rdrw = false ∧ State.reset.tacc = 0 ∧
  State.reset.shiftUsesVy = false

/-- `power_on` sets every part of the spec's state to its reset value: memory to `FONT` at 0x000 to 0x04F, whatever the font, and 0
elsewhere. It leaves the parameters and what the outside world supplies (the model's own fields: log entry 31). FB, KEY, RDRW
and TACC are the spec's decision D14 (log entry 11); the stack slots, 0, are not observable (D24, log entry 10). -/
def Obligations.PowerOnSetsEverything : Prop :=
  ∀ s : State, ∃ t, perform .powerOn s = (.done, t) ∧
    (∀ a (h : a < 80), t.byteAt a = s.font[a]) ∧ (∀ a, 80 ≤ a → t.byteAt a = 0#8) ∧
    (∀ p : StatePart, (∀ a, p ≠ .mem a) → p ≠ .font → p ≠ .shiftUsesVy → p ≠ .tickInterval → p ≠ .pending →
      p ≠ .freeCycles → p ≠ .rndFeed → p ≠ .rndDraws → p.same State.reset t) ∧
    (∀ p : StatePart, (p = .font ∨ p = .shiftUsesVy ∨ p = .tickInterval ∨ p = .pending ∨ p = .freeCycles ∨ p = .rndFeed ∨
      p = .rndDraws) → p.same s t)

/-- `reset()` is `power_on` except that the program window 0x200 to 0xFFF keeps its bytes, whatever it holds now (the extent of
"loaded program bytes" is the spec's decision D15, log entry 17). -/
def Obligations.ResetKeepsProgramWindow : Prop :=
  ∀ s : State, s.memWf = true → ∃ t u, perform .reset s = (.done, t) ∧ perform .powerOn s = (.done, u) ∧
    (∀ a, 0x200 ≤ a → t.byteAt a = s.byteAt a) ∧ KeepsAllBut (fun p => ∃ a, 0x200 ≤ a ∧ p = .mem a) u t

/-- `load_program`: the bytes at 0x200 and nothing else changed, an empty or odd load included; more than 0xE00 bytes are refused
with no change (the details are the spec's decision D16, log entry 18). -/
def Obligations.LoadProgramWritesWindow : Prop :=
  ∀ (bytes : List Byte) (s : State), s.memWf = true →
    (bytes.length ≤ 0xE00 → ∃ t, perform (.loadProgram bytes) s = (.done, t) ∧
      (∀ k, k < bytes.length → t.byteAt (0x200 + k) = bytes.getD k 0#8) ∧
      KeepsAllBut (fun p => p.isMemIn 0x200 bytes.length) s t) ∧
    (0xE00 < bytes.length → perform (.loadProgram bytes) s = (.loadTooLarge, s))

/-- `set_key` writes one flag, a code above 0xF is refused with no change (the spec's decision D21, log entry 18);
`redraw_pending` only reads; `ack_redraw` clears the flag (D23). -/
def Obligations.KeyAndRedrawOperations : Prop :=
  ∀ (s : State),
    (∀ (k : Fin 16) (b : Bool), ∃ t, perform (.setKey k.val b) s = (.done, t) ∧ t.keyDown k = b ∧
      KeepsAllBut (fun p => p = .key k) s t) ∧
    (∀ (code : Nat) (b : Bool), 0xF < code → perform (.setKey code b) s = (.badKeyCode, s)) ∧
    perform .redrawPending s = (.redraw s.rdrw, s) ∧
    (∃ t, perform .ackRedraw s = (.done, t) ∧ t.rdrw = false ∧ KeepsAllBut (fun p => p = .rdrw) s t)

/-- R193: `framebuffer()` gives the 2048 cells row-major and changes nothing. -/
def Obligations.FramebufferIsRowMajor : Prop :=
  ∀ s : State, ∃ cs, perform .framebuffer s = (.cells cs, s) ∧ cs.length = 2048 ∧
    ∀ (y : Fin 32) (x : Fin 64), cs[y.val * 64 + x.val]? = some (cellAt s.fb y x)

/-! ### Whole-machine rules -/

/-- Every instruction that completes writes only what the spec lists for it, and leaves every other register, VF, slot, cell, key,
timer, parameter and every other byte of memory unchanged. That `I` is unchanged by Fx33, Fx55 and Fx65 is the spec's decision D13
(log entry 20), that the slot `RET` pops is unchanged D24 (log entry 10). -/
def Obligations.InstructionsWriteOnlyTheirParts : Prop :=
  ∀ (i : Instr) (s t : State), s.memWf = true → exec i s = .next t → KeepsAllBut (mayWrite i s) s t

/-- A cycle changes no key, clears no redraw flag, and changes no parameter and no pending operation: only the host writes KEY and
clears RDRW. It sets RDRW only by `CLS` and `DRW`. -/
def Obligations.OnlyHostWritesKeysAndClearsRedraw : Prop :=
  ∀ (s t : State) (e : Nat), cycle e s = .next t →
    (∀ k, t.keyDown k = s.keyDown k) ∧ (s.rdrw = true → t.rdrw = true) ∧
    (s.rdrw = false → t.rdrw = true →
      decode (wordAtPc s) = .ok .cls ∨ ∃ x y n, decode (wordAtPc s) = .ok (.drw x y n)) ∧
    t.font = s.font ∧ t.shiftUsesVy = s.shiftUsesVy ∧ t.tickInterval = s.tickInterval ∧ t.pending = s.pending

/-- Only `SKP`, `SKNP` and `LD Vx, K` read the keys: any other instruction does the same whatever keys are down. -/
def Obligations.OnlyKeyInstructionsReadKeys : Prop :=
  ∀ (i : Instr) (s : State) (key : Vector Bool 16),
    (∀ x, i ≠ .skp x) → (∀ x, i ≠ .sknp x) → (∀ x, i ≠ .ldVxK x) →
    (∀ t, exec i s = .next t → exec i { s with key := key } = .next { t with key := key }) ∧
    (∀ f, exec i s = .fault f → exec i { s with key := key } = .fault f)

/-- No instruction reads TACC or ST: with any other values of them it completes with the same result elsewhere, or faults the
same. -/
def Obligations.NoInstructionReadsTaccOrSt : Prop :=
  ∀ (i : Instr) (s : State) (n : Nat) (b : Byte),
    (∀ t, exec i s = .next t → ∃ u, exec i { s with tacc := n, st := b } = .next u ∧
      KeepsAllBut (fun p => p = .tacc ∨ p = .st) t u) ∧
    (∀ f, exec i s = .fault f → exec i { s with tacc := n, st := b } = .fault f)

/-! ### The invariant -/

/-- The invariant holds right after reset. -/
def Obligations.ResetMeetsInvariant : Prop := State.reset.Inv

/-- Every step keeps the invariant: memory in canonical form, TACC below a positive TICK_INTERVAL, PC at most 0x10FE, every live
stack entry a return address 0x0002 to 0x1000. -/
def Obligations.StepKeepsInvariant : Prop :=
  ∀ s t : State, s.Inv → Sys2Proof.Machine.step s = .next t → t.Inv

/-! ### The parameters -/

/-- The font, for every value of the parameter `FONT` (R3, R45): after `power_on` and after `reset()`, whatever memory held, the byte
of row `r` of digit `d` at `d * 5 + r` is that of the font, and `LD F, Vx` on the digit leads to it. -/
def Obligations.FontIsInstalled : Prop :=
  ∀ (s : State) (op : HostOp) (d : Fin 16) (r : Fin 5) (x : Reg), op = .powerOn ∨ op = .reset →
    ∃ t u, perform op s = (.done, t) ∧ t.font = s.font ∧ some (t.byteAt (d.val * 5 + r.val)) = s.font[d.val * 5 + r.val]? ∧
      exec (.ldF x) (t.writeV x (BitVec.ofNat 8 d.val)) = .next u ∧
      some (u.byteAt (u.i.toNat + r.val)) = s.font[d.val * 5 + r.val]?

/-- The parameters of the hardware (R3, R25) are fixed for a run: no step changes one, whatever operation it performs. -/
def Obligations.StepKeepsParameters : Prop :=
  ∀ s t : State, Sys2Proof.Machine.step s = .next t →
    t.font = s.font ∧ t.shiftUsesVy = s.shiftUsesVy ∧ t.tickInterval = s.tickInterval
end

