-- ==== Sys2Proof/Laws/Decode.lean ====
section
/-! SUPPORT. The fields of a packed word (spec/30_encoding.md R61), by arithmetic on naturals. -/

namespace Sys2Proof

theorem groupOf_toNat (w : Word) : (groupOf w).toNat = w.toNat / 4096 := by
  simp [groupOf, Nat.shiftRight_eq_div_pow]; omega

theorem xOf_val (w : Word) : (xOf w).val = w.toNat / 256 % 16 := by
  simp [xOf, Nat.shiftRight_eq_div_pow]

theorem yOf_val (w : Word) : (yOf w).val = w.toNat / 16 % 16 := by
  simp [yOf, Nat.shiftRight_eq_div_pow]

theorem nOf_eq (w : Word) : nOf w = w.toNat % 16 := by
  simp [nOf]

theorem nnOf_toNat (w : Word) : (nnOf w).toNat = w.toNat % 256 := by
  simp [nnOf]

theorem nnnOf_toNat (w : Word) : (nnnOf w).toNat = w.toNat % 4096 := by
  simp [nnnOf]

theorem packXYN_toNat {g x y n : Nat} (hg : g < 16) (hx : x < 16) (hy : y < 16) (hn : n < 16) :
    (packXYN g x y n).toNat = g * 4096 + x * 256 + y * 16 + n := by
  simp [packXYN]; omega

theorem packXNN_toNat {g x nn : Nat} (hg : g < 16) (hx : x < 16) (hn : nn < 256) :
    (packXNN g x nn).toNat = g * 4096 + x * 256 + nn := by
  simp [packXNN]; omega

theorem packNNN_toNat {g nnn : Nat} (hg : g < 16) (hn : nnn < 4096) : (packNNN g nnn).toNat = g * 4096 + nnn := by
  simp [packNNN]; omega

/-- The two bytes of a word make the word (R43). -/
theorem wordOfBytes_hi_lo (w : Word) : wordOfBytes (hiByte w) (loByte w) = w := by
  apply BitVec.eq_of_toNat_eq
  have h1 := w.isLt
  have hor := Nat.shiftLeft_add_eq_or_of_lt (i := 8) (b := w.toNat % 256) (by omega) (w.toNat / 256 % 256)
  simp only [wordOfBytes, hiByte, loByte, BitVec.toNat_append, BitVec.extractLsb'_toNat, Nat.shiftRight_eq_div_pow]
  simp only [Nat.reducePow, Nat.div_one] at *
  rw [← hor, Nat.shiftLeft_eq]
  omega

end Sys2Proof
end

