-- ==== Sys2Proof/Laws/State.lean ====
section
/-! SUPPORT. One lemma for each field under each update of the state, true by definition, so that no proof unfolds a record
update. -/

namespace Sys2Proof.Machine

variable (s : State)

/-! #### storeByte -/

@[simp] theorem storeByte_mem (a : Nat) (b : Byte) : (s.storeByte a b).mem = s.mem.put s.font a b := rfl
@[simp] theorem storeByte_v (a : Nat) (b : Byte) : (s.storeByte a b).v = s.v := rfl
@[simp] theorem storeByte_i (a : Nat) (b : Byte) : (s.storeByte a b).i = s.i := rfl
@[simp] theorem storeByte_pc (a : Nat) (b : Byte) : (s.storeByte a b).pc = s.pc := rfl
@[simp] theorem storeByte_stk (a : Nat) (b : Byte) : (s.storeByte a b).stk = s.stk := rfl
@[simp] theorem storeByte_sp (a : Nat) (b : Byte) : (s.storeByte a b).sp = s.sp := rfl
@[simp] theorem storeByte_fb (a : Nat) (b : Byte) : (s.storeByte a b).fb = s.fb := rfl
@[simp] theorem storeByte_key (a : Nat) (b : Byte) : (s.storeByte a b).key = s.key := rfl
@[simp] theorem storeByte_dt (a : Nat) (b : Byte) : (s.storeByte a b).dt = s.dt := rfl
@[simp] theorem storeByte_st (a : Nat) (b : Byte) : (s.storeByte a b).st = s.st := rfl
@[simp] theorem storeByte_rdrw (a : Nat) (b : Byte) : (s.storeByte a b).rdrw = s.rdrw := rfl
@[simp] theorem storeByte_tacc (a : Nat) (b : Byte) : (s.storeByte a b).tacc = s.tacc := rfl
@[simp] theorem storeByte_font (a : Nat) (b : Byte) : (s.storeByte a b).font = s.font := rfl
@[simp] theorem storeByte_shiftUsesVy (a : Nat) (b : Byte) : (s.storeByte a b).shiftUsesVy = s.shiftUsesVy := rfl
@[simp] theorem storeByte_tickInterval (a : Nat) (b : Byte) : (s.storeByte a b).tickInterval = s.tickInterval := rfl
@[simp] theorem storeByte_pending (a : Nat) (b : Byte) : (s.storeByte a b).pending = s.pending := rfl
@[simp] theorem storeByte_freeCycles (a : Nat) (b : Byte) : (s.storeByte a b).freeCycles = s.freeCycles := rfl
@[simp] theorem storeByte_rndFeed (a : Nat) (b : Byte) : (s.storeByte a b).rndFeed = s.rndFeed := rfl
@[simp] theorem storeByte_rndDraws (a : Nat) (b : Byte) : (s.storeByte a b).rndDraws = s.rndDraws := rfl

/-! #### writeV -/

@[simp] theorem writeV_mem (x : Reg) (b : Byte) : (s.writeV x b).mem = s.mem := rfl
@[simp] theorem writeV_v (x : Reg) (b : Byte) : (s.writeV x b).v = s.v.set x b := rfl
@[simp] theorem writeV_i (x : Reg) (b : Byte) : (s.writeV x b).i = s.i := rfl
@[simp] theorem writeV_pc (x : Reg) (b : Byte) : (s.writeV x b).pc = s.pc := rfl
@[simp] theorem writeV_stk (x : Reg) (b : Byte) : (s.writeV x b).stk = s.stk := rfl
@[simp] theorem writeV_sp (x : Reg) (b : Byte) : (s.writeV x b).sp = s.sp := rfl
@[simp] theorem writeV_fb (x : Reg) (b : Byte) : (s.writeV x b).fb = s.fb := rfl
@[simp] theorem writeV_key (x : Reg) (b : Byte) : (s.writeV x b).key = s.key := rfl
@[simp] theorem writeV_dt (x : Reg) (b : Byte) : (s.writeV x b).dt = s.dt := rfl
@[simp] theorem writeV_st (x : Reg) (b : Byte) : (s.writeV x b).st = s.st := rfl
@[simp] theorem writeV_rdrw (x : Reg) (b : Byte) : (s.writeV x b).rdrw = s.rdrw := rfl
@[simp] theorem writeV_tacc (x : Reg) (b : Byte) : (s.writeV x b).tacc = s.tacc := rfl
@[simp] theorem writeV_font (x : Reg) (b : Byte) : (s.writeV x b).font = s.font := rfl
@[simp] theorem writeV_shiftUsesVy (x : Reg) (b : Byte) : (s.writeV x b).shiftUsesVy = s.shiftUsesVy := rfl
@[simp] theorem writeV_tickInterval (x : Reg) (b : Byte) : (s.writeV x b).tickInterval = s.tickInterval := rfl
@[simp] theorem writeV_pending (x : Reg) (b : Byte) : (s.writeV x b).pending = s.pending := rfl
@[simp] theorem writeV_freeCycles (x : Reg) (b : Byte) : (s.writeV x b).freeCycles = s.freeCycles := rfl
@[simp] theorem writeV_rndFeed (x : Reg) (b : Byte) : (s.writeV x b).rndFeed = s.rndFeed := rfl
@[simp] theorem writeV_rndDraws (x : Reg) (b : Byte) : (s.writeV x b).rndDraws = s.rndDraws := rfl

/-! #### writeVFlag -/

@[simp] theorem writeVFlag_mem (x : Reg) (b : Byte) (f : Bool) : (s.writeVFlag x b f).mem = s.mem := rfl
@[simp] theorem writeVFlag_v (x : Reg) (b : Byte) (f : Bool) : (s.writeVFlag x b f).v = (s.v.set x b).set vf (bitByte f) := rfl
@[simp] theorem writeVFlag_i (x : Reg) (b : Byte) (f : Bool) : (s.writeVFlag x b f).i = s.i := rfl
@[simp] theorem writeVFlag_pc (x : Reg) (b : Byte) (f : Bool) : (s.writeVFlag x b f).pc = s.pc := rfl
@[simp] theorem writeVFlag_stk (x : Reg) (b : Byte) (f : Bool) : (s.writeVFlag x b f).stk = s.stk := rfl
@[simp] theorem writeVFlag_sp (x : Reg) (b : Byte) (f : Bool) : (s.writeVFlag x b f).sp = s.sp := rfl
@[simp] theorem writeVFlag_fb (x : Reg) (b : Byte) (f : Bool) : (s.writeVFlag x b f).fb = s.fb := rfl
@[simp] theorem writeVFlag_key (x : Reg) (b : Byte) (f : Bool) : (s.writeVFlag x b f).key = s.key := rfl
@[simp] theorem writeVFlag_dt (x : Reg) (b : Byte) (f : Bool) : (s.writeVFlag x b f).dt = s.dt := rfl
@[simp] theorem writeVFlag_st (x : Reg) (b : Byte) (f : Bool) : (s.writeVFlag x b f).st = s.st := rfl
@[simp] theorem writeVFlag_rdrw (x : Reg) (b : Byte) (f : Bool) : (s.writeVFlag x b f).rdrw = s.rdrw := rfl
@[simp] theorem writeVFlag_tacc (x : Reg) (b : Byte) (f : Bool) : (s.writeVFlag x b f).tacc = s.tacc := rfl
@[simp] theorem writeVFlag_font (x : Reg) (b : Byte) (f : Bool) : (s.writeVFlag x b f).font = s.font := rfl
@[simp] theorem writeVFlag_shiftUsesVy (x : Reg) (b : Byte) (f : Bool) : (s.writeVFlag x b f).shiftUsesVy = s.shiftUsesVy := rfl
@[simp] theorem writeVFlag_tickInterval (x : Reg) (b : Byte) (f : Bool) : (s.writeVFlag x b f).tickInterval = s.tickInterval := rfl
@[simp] theorem writeVFlag_pending (x : Reg) (b : Byte) (f : Bool) : (s.writeVFlag x b f).pending = s.pending := rfl
@[simp] theorem writeVFlag_freeCycles (x : Reg) (b : Byte) (f : Bool) : (s.writeVFlag x b f).freeCycles = s.freeCycles := rfl
@[simp] theorem writeVFlag_rndFeed (x : Reg) (b : Byte) (f : Bool) : (s.writeVFlag x b f).rndFeed = s.rndFeed := rfl
@[simp] theorem writeVFlag_rndDraws (x : Reg) (b : Byte) (f : Bool) : (s.writeVFlag x b f).rndDraws = s.rndDraws := rfl

/-! #### setI -/

@[simp] theorem setI_mem (w : Word) : (s.setI w).mem = s.mem := rfl
@[simp] theorem setI_v (w : Word) : (s.setI w).v = s.v := rfl
@[simp] theorem setI_i (w : Word) : (s.setI w).i = w := rfl
@[simp] theorem setI_pc (w : Word) : (s.setI w).pc = s.pc := rfl
@[simp] theorem setI_stk (w : Word) : (s.setI w).stk = s.stk := rfl
@[simp] theorem setI_sp (w : Word) : (s.setI w).sp = s.sp := rfl
@[simp] theorem setI_fb (w : Word) : (s.setI w).fb = s.fb := rfl
@[simp] theorem setI_key (w : Word) : (s.setI w).key = s.key := rfl
@[simp] theorem setI_dt (w : Word) : (s.setI w).dt = s.dt := rfl
@[simp] theorem setI_st (w : Word) : (s.setI w).st = s.st := rfl
@[simp] theorem setI_rdrw (w : Word) : (s.setI w).rdrw = s.rdrw := rfl
@[simp] theorem setI_tacc (w : Word) : (s.setI w).tacc = s.tacc := rfl
@[simp] theorem setI_font (w : Word) : (s.setI w).font = s.font := rfl
@[simp] theorem setI_shiftUsesVy (w : Word) : (s.setI w).shiftUsesVy = s.shiftUsesVy := rfl
@[simp] theorem setI_tickInterval (w : Word) : (s.setI w).tickInterval = s.tickInterval := rfl
@[simp] theorem setI_pending (w : Word) : (s.setI w).pending = s.pending := rfl
@[simp] theorem setI_freeCycles (w : Word) : (s.setI w).freeCycles = s.freeCycles := rfl
@[simp] theorem setI_rndFeed (w : Word) : (s.setI w).rndFeed = s.rndFeed := rfl
@[simp] theorem setI_rndDraws (w : Word) : (s.setI w).rndDraws = s.rndDraws := rfl

/-! #### setPc -/

@[simp] theorem setPc_mem (w : Word) : (s.setPc w).mem = s.mem := rfl
@[simp] theorem setPc_v (w : Word) : (s.setPc w).v = s.v := rfl
@[simp] theorem setPc_i (w : Word) : (s.setPc w).i = s.i := rfl
@[simp] theorem setPc_pc (w : Word) : (s.setPc w).pc = w := rfl
@[simp] theorem setPc_stk (w : Word) : (s.setPc w).stk = s.stk := rfl
@[simp] theorem setPc_sp (w : Word) : (s.setPc w).sp = s.sp := rfl
@[simp] theorem setPc_fb (w : Word) : (s.setPc w).fb = s.fb := rfl
@[simp] theorem setPc_key (w : Word) : (s.setPc w).key = s.key := rfl
@[simp] theorem setPc_dt (w : Word) : (s.setPc w).dt = s.dt := rfl
@[simp] theorem setPc_st (w : Word) : (s.setPc w).st = s.st := rfl
@[simp] theorem setPc_rdrw (w : Word) : (s.setPc w).rdrw = s.rdrw := rfl
@[simp] theorem setPc_tacc (w : Word) : (s.setPc w).tacc = s.tacc := rfl
@[simp] theorem setPc_font (w : Word) : (s.setPc w).font = s.font := rfl
@[simp] theorem setPc_shiftUsesVy (w : Word) : (s.setPc w).shiftUsesVy = s.shiftUsesVy := rfl
@[simp] theorem setPc_tickInterval (w : Word) : (s.setPc w).tickInterval = s.tickInterval := rfl
@[simp] theorem setPc_pending (w : Word) : (s.setPc w).pending = s.pending := rfl
@[simp] theorem setPc_freeCycles (w : Word) : (s.setPc w).freeCycles = s.freeCycles := rfl
@[simp] theorem setPc_rndFeed (w : Word) : (s.setPc w).rndFeed = s.rndFeed := rfl
@[simp] theorem setPc_rndDraws (w : Word) : (s.setPc w).rndDraws = s.rndDraws := rfl

/-! #### advance -/

@[simp] theorem advance_mem : (s.advance).mem = s.mem := rfl
@[simp] theorem advance_v : (s.advance).v = s.v := rfl
@[simp] theorem advance_i : (s.advance).i = s.i := rfl
@[simp] theorem advance_pc : (s.advance).pc = s.pc + 2#16 := rfl
@[simp] theorem advance_stk : (s.advance).stk = s.stk := rfl
@[simp] theorem advance_sp : (s.advance).sp = s.sp := rfl
@[simp] theorem advance_fb : (s.advance).fb = s.fb := rfl
@[simp] theorem advance_key : (s.advance).key = s.key := rfl
@[simp] theorem advance_dt : (s.advance).dt = s.dt := rfl
@[simp] theorem advance_st : (s.advance).st = s.st := rfl
@[simp] theorem advance_rdrw : (s.advance).rdrw = s.rdrw := rfl
@[simp] theorem advance_tacc : (s.advance).tacc = s.tacc := rfl
@[simp] theorem advance_font : (s.advance).font = s.font := rfl
@[simp] theorem advance_shiftUsesVy : (s.advance).shiftUsesVy = s.shiftUsesVy := rfl
@[simp] theorem advance_tickInterval : (s.advance).tickInterval = s.tickInterval := rfl
@[simp] theorem advance_pending : (s.advance).pending = s.pending := rfl
@[simp] theorem advance_freeCycles : (s.advance).freeCycles = s.freeCycles := rfl
@[simp] theorem advance_rndFeed : (s.advance).rndFeed = s.rndFeed := rfl
@[simp] theorem advance_rndDraws : (s.advance).rndDraws = s.rndDraws := rfl

/-! #### skip -/

@[simp] theorem skip_mem : (s.skip).mem = s.mem := rfl
@[simp] theorem skip_v : (s.skip).v = s.v := rfl
@[simp] theorem skip_i : (s.skip).i = s.i := rfl
@[simp] theorem skip_pc : (s.skip).pc = s.pc + 2#16 := rfl
@[simp] theorem skip_stk : (s.skip).stk = s.stk := rfl
@[simp] theorem skip_sp : (s.skip).sp = s.sp := rfl
@[simp] theorem skip_fb : (s.skip).fb = s.fb := rfl
@[simp] theorem skip_key : (s.skip).key = s.key := rfl
@[simp] theorem skip_dt : (s.skip).dt = s.dt := rfl
@[simp] theorem skip_st : (s.skip).st = s.st := rfl
@[simp] theorem skip_rdrw : (s.skip).rdrw = s.rdrw := rfl
@[simp] theorem skip_tacc : (s.skip).tacc = s.tacc := rfl
@[simp] theorem skip_font : (s.skip).font = s.font := rfl
@[simp] theorem skip_shiftUsesVy : (s.skip).shiftUsesVy = s.shiftUsesVy := rfl
@[simp] theorem skip_tickInterval : (s.skip).tickInterval = s.tickInterval := rfl
@[simp] theorem skip_pending : (s.skip).pending = s.pending := rfl
@[simp] theorem skip_freeCycles : (s.skip).freeCycles = s.freeCycles := rfl
@[simp] theorem skip_rndFeed : (s.skip).rndFeed = s.rndFeed := rfl
@[simp] theorem skip_rndDraws : (s.skip).rndDraws = s.rndDraws := rfl

/-! #### rewind -/

@[simp] theorem rewind_mem : (s.rewind).mem = s.mem := rfl
@[simp] theorem rewind_v : (s.rewind).v = s.v := rfl
@[simp] theorem rewind_i : (s.rewind).i = s.i := rfl
@[simp] theorem rewind_pc : (s.rewind).pc = s.pc - 2#16 := rfl
@[simp] theorem rewind_stk : (s.rewind).stk = s.stk := rfl
@[simp] theorem rewind_sp : (s.rewind).sp = s.sp := rfl
@[simp] theorem rewind_fb : (s.rewind).fb = s.fb := rfl
@[simp] theorem rewind_key : (s.rewind).key = s.key := rfl
@[simp] theorem rewind_dt : (s.rewind).dt = s.dt := rfl
@[simp] theorem rewind_st : (s.rewind).st = s.st := rfl
@[simp] theorem rewind_rdrw : (s.rewind).rdrw = s.rdrw := rfl
@[simp] theorem rewind_tacc : (s.rewind).tacc = s.tacc := rfl
@[simp] theorem rewind_font : (s.rewind).font = s.font := rfl
@[simp] theorem rewind_shiftUsesVy : (s.rewind).shiftUsesVy = s.shiftUsesVy := rfl
@[simp] theorem rewind_tickInterval : (s.rewind).tickInterval = s.tickInterval := rfl
@[simp] theorem rewind_pending : (s.rewind).pending = s.pending := rfl
@[simp] theorem rewind_freeCycles : (s.rewind).freeCycles = s.freeCycles := rfl
@[simp] theorem rewind_rndFeed : (s.rewind).rndFeed = s.rndFeed := rfl
@[simp] theorem rewind_rndDraws : (s.rewind).rndDraws = s.rndDraws := rfl

/-! #### setDt -/

@[simp] theorem setDt_mem (b : Byte) : (s.setDt b).mem = s.mem := rfl
@[simp] theorem setDt_v (b : Byte) : (s.setDt b).v = s.v := rfl
@[simp] theorem setDt_i (b : Byte) : (s.setDt b).i = s.i := rfl
@[simp] theorem setDt_pc (b : Byte) : (s.setDt b).pc = s.pc := rfl
@[simp] theorem setDt_stk (b : Byte) : (s.setDt b).stk = s.stk := rfl
@[simp] theorem setDt_sp (b : Byte) : (s.setDt b).sp = s.sp := rfl
@[simp] theorem setDt_fb (b : Byte) : (s.setDt b).fb = s.fb := rfl
@[simp] theorem setDt_key (b : Byte) : (s.setDt b).key = s.key := rfl
@[simp] theorem setDt_dt (b : Byte) : (s.setDt b).dt = b := rfl
@[simp] theorem setDt_st (b : Byte) : (s.setDt b).st = s.st := rfl
@[simp] theorem setDt_rdrw (b : Byte) : (s.setDt b).rdrw = s.rdrw := rfl
@[simp] theorem setDt_tacc (b : Byte) : (s.setDt b).tacc = s.tacc := rfl
@[simp] theorem setDt_font (b : Byte) : (s.setDt b).font = s.font := rfl
@[simp] theorem setDt_shiftUsesVy (b : Byte) : (s.setDt b).shiftUsesVy = s.shiftUsesVy := rfl
@[simp] theorem setDt_tickInterval (b : Byte) : (s.setDt b).tickInterval = s.tickInterval := rfl
@[simp] theorem setDt_pending (b : Byte) : (s.setDt b).pending = s.pending := rfl
@[simp] theorem setDt_freeCycles (b : Byte) : (s.setDt b).freeCycles = s.freeCycles := rfl
@[simp] theorem setDt_rndFeed (b : Byte) : (s.setDt b).rndFeed = s.rndFeed := rfl
@[simp] theorem setDt_rndDraws (b : Byte) : (s.setDt b).rndDraws = s.rndDraws := rfl

/-! #### setSt -/

@[simp] theorem setSt_mem (b : Byte) : (s.setSt b).mem = s.mem := rfl
@[simp] theorem setSt_v (b : Byte) : (s.setSt b).v = s.v := rfl
@[simp] theorem setSt_i (b : Byte) : (s.setSt b).i = s.i := rfl
@[simp] theorem setSt_pc (b : Byte) : (s.setSt b).pc = s.pc := rfl
@[simp] theorem setSt_stk (b : Byte) : (s.setSt b).stk = s.stk := rfl
@[simp] theorem setSt_sp (b : Byte) : (s.setSt b).sp = s.sp := rfl
@[simp] theorem setSt_fb (b : Byte) : (s.setSt b).fb = s.fb := rfl
@[simp] theorem setSt_key (b : Byte) : (s.setSt b).key = s.key := rfl
@[simp] theorem setSt_dt (b : Byte) : (s.setSt b).dt = s.dt := rfl
@[simp] theorem setSt_st (b : Byte) : (s.setSt b).st = b := rfl
@[simp] theorem setSt_rdrw (b : Byte) : (s.setSt b).rdrw = s.rdrw := rfl
@[simp] theorem setSt_tacc (b : Byte) : (s.setSt b).tacc = s.tacc := rfl
@[simp] theorem setSt_font (b : Byte) : (s.setSt b).font = s.font := rfl
@[simp] theorem setSt_shiftUsesVy (b : Byte) : (s.setSt b).shiftUsesVy = s.shiftUsesVy := rfl
@[simp] theorem setSt_tickInterval (b : Byte) : (s.setSt b).tickInterval = s.tickInterval := rfl
@[simp] theorem setSt_pending (b : Byte) : (s.setSt b).pending = s.pending := rfl
@[simp] theorem setSt_freeCycles (b : Byte) : (s.setSt b).freeCycles = s.freeCycles := rfl
@[simp] theorem setSt_rndFeed (b : Byte) : (s.setSt b).rndFeed = s.rndFeed := rfl
@[simp] theorem setSt_rndDraws (b : Byte) : (s.setSt b).rndDraws = s.rndDraws := rfl

/-! #### setDisplay -/

@[simp] theorem setDisplay_mem (d : Display) : (s.setDisplay d).mem = s.mem := rfl
@[simp] theorem setDisplay_v (d : Display) : (s.setDisplay d).v = s.v := rfl
@[simp] theorem setDisplay_i (d : Display) : (s.setDisplay d).i = s.i := rfl
@[simp] theorem setDisplay_pc (d : Display) : (s.setDisplay d).pc = s.pc := rfl
@[simp] theorem setDisplay_stk (d : Display) : (s.setDisplay d).stk = s.stk := rfl
@[simp] theorem setDisplay_sp (d : Display) : (s.setDisplay d).sp = s.sp := rfl
@[simp] theorem setDisplay_fb (d : Display) : (s.setDisplay d).fb = d := rfl
@[simp] theorem setDisplay_key (d : Display) : (s.setDisplay d).key = s.key := rfl
@[simp] theorem setDisplay_dt (d : Display) : (s.setDisplay d).dt = s.dt := rfl
@[simp] theorem setDisplay_st (d : Display) : (s.setDisplay d).st = s.st := rfl
@[simp] theorem setDisplay_rdrw (d : Display) : (s.setDisplay d).rdrw = true := rfl
@[simp] theorem setDisplay_tacc (d : Display) : (s.setDisplay d).tacc = s.tacc := rfl
@[simp] theorem setDisplay_font (d : Display) : (s.setDisplay d).font = s.font := rfl
@[simp] theorem setDisplay_shiftUsesVy (d : Display) : (s.setDisplay d).shiftUsesVy = s.shiftUsesVy := rfl
@[simp] theorem setDisplay_tickInterval (d : Display) : (s.setDisplay d).tickInterval = s.tickInterval := rfl
@[simp] theorem setDisplay_pending (d : Display) : (s.setDisplay d).pending = s.pending := rfl
@[simp] theorem setDisplay_freeCycles (d : Display) : (s.setDisplay d).freeCycles = s.freeCycles := rfl
@[simp] theorem setDisplay_rndFeed (d : Display) : (s.setDisplay d).rndFeed = s.rndFeed := rfl
@[simp] theorem setDisplay_rndDraws (d : Display) : (s.setDisplay d).rndDraws = s.rndDraws := rfl

/-! #### loadFirstRegs -/

@[simp] theorem loadFirstRegs_mem (x : Reg) : (s.loadFirstRegs x).mem = s.mem := rfl
@[simp] theorem loadFirstRegs_i (x : Reg) : (s.loadFirstRegs x).i = s.i := rfl
@[simp] theorem loadFirstRegs_pc (x : Reg) : (s.loadFirstRegs x).pc = s.pc := rfl
@[simp] theorem loadFirstRegs_stk (x : Reg) : (s.loadFirstRegs x).stk = s.stk := rfl
@[simp] theorem loadFirstRegs_sp (x : Reg) : (s.loadFirstRegs x).sp = s.sp := rfl
@[simp] theorem loadFirstRegs_fb (x : Reg) : (s.loadFirstRegs x).fb = s.fb := rfl
@[simp] theorem loadFirstRegs_key (x : Reg) : (s.loadFirstRegs x).key = s.key := rfl
@[simp] theorem loadFirstRegs_dt (x : Reg) : (s.loadFirstRegs x).dt = s.dt := rfl
@[simp] theorem loadFirstRegs_st (x : Reg) : (s.loadFirstRegs x).st = s.st := rfl
@[simp] theorem loadFirstRegs_rdrw (x : Reg) : (s.loadFirstRegs x).rdrw = s.rdrw := rfl
@[simp] theorem loadFirstRegs_tacc (x : Reg) : (s.loadFirstRegs x).tacc = s.tacc := rfl
@[simp] theorem loadFirstRegs_font (x : Reg) : (s.loadFirstRegs x).font = s.font := rfl
@[simp] theorem loadFirstRegs_shiftUsesVy (x : Reg) : (s.loadFirstRegs x).shiftUsesVy = s.shiftUsesVy := rfl
@[simp] theorem loadFirstRegs_tickInterval (x : Reg) : (s.loadFirstRegs x).tickInterval = s.tickInterval := rfl
@[simp] theorem loadFirstRegs_pending (x : Reg) : (s.loadFirstRegs x).pending = s.pending := rfl
@[simp] theorem loadFirstRegs_freeCycles (x : Reg) : (s.loadFirstRegs x).freeCycles = s.freeCycles := rfl
@[simp] theorem loadFirstRegs_rndFeed (x : Reg) : (s.loadFirstRegs x).rndFeed = s.rndFeed := rfl
@[simp] theorem loadFirstRegs_rndDraws (x : Reg) : (s.loadFirstRegs x).rndDraws = s.rndDraws := rfl

/-! #### timerTick -/

@[simp] theorem timerTick_mem : (timerTick s).mem = s.mem := rfl
@[simp] theorem timerTick_v : (timerTick s).v = s.v := rfl
@[simp] theorem timerTick_i : (timerTick s).i = s.i := rfl
@[simp] theorem timerTick_pc : (timerTick s).pc = s.pc := rfl
@[simp] theorem timerTick_stk : (timerTick s).stk = s.stk := rfl
@[simp] theorem timerTick_sp : (timerTick s).sp = s.sp := rfl
@[simp] theorem timerTick_fb : (timerTick s).fb = s.fb := rfl
@[simp] theorem timerTick_key : (timerTick s).key = s.key := rfl
@[simp] theorem timerTick_dt : (timerTick s).dt = tick s.dt := rfl
@[simp] theorem timerTick_st : (timerTick s).st = tick s.st := rfl
@[simp] theorem timerTick_rdrw : (timerTick s).rdrw = s.rdrw := rfl
@[simp] theorem timerTick_tacc : (timerTick s).tacc = s.tacc := rfl
@[simp] theorem timerTick_font : (timerTick s).font = s.font := rfl
@[simp] theorem timerTick_shiftUsesVy : (timerTick s).shiftUsesVy = s.shiftUsesVy := rfl
@[simp] theorem timerTick_tickInterval : (timerTick s).tickInterval = s.tickInterval := rfl
@[simp] theorem timerTick_pending : (timerTick s).pending = s.pending := rfl
@[simp] theorem timerTick_freeCycles : (timerTick s).freeCycles = s.freeCycles := rfl
@[simp] theorem timerTick_rndFeed : (timerTick s).rndFeed = s.rndFeed := rfl
@[simp] theorem timerTick_rndDraws : (timerTick s).rndDraws = s.rndDraws := rfl

/-! #### timerStep -/

@[simp] theorem timerStep_mem (e : Nat) : (timerStep e s).mem = s.mem := rfl
@[simp] theorem timerStep_v (e : Nat) : (timerStep e s).v = s.v := rfl
@[simp] theorem timerStep_i (e : Nat) : (timerStep e s).i = s.i := rfl
@[simp] theorem timerStep_pc (e : Nat) : (timerStep e s).pc = s.pc := rfl
@[simp] theorem timerStep_stk (e : Nat) : (timerStep e s).stk = s.stk := rfl
@[simp] theorem timerStep_sp (e : Nat) : (timerStep e s).sp = s.sp := rfl
@[simp] theorem timerStep_fb (e : Nat) : (timerStep e s).fb = s.fb := rfl
@[simp] theorem timerStep_key (e : Nat) : (timerStep e s).key = s.key := rfl
@[simp] theorem timerStep_dt (e : Nat) : (timerStep e s).dt = ticks (s.dueTicks e) s.dt := rfl
@[simp] theorem timerStep_st (e : Nat) : (timerStep e s).st = ticks (s.dueTicks e) s.st := rfl
@[simp] theorem timerStep_rdrw (e : Nat) : (timerStep e s).rdrw = s.rdrw := rfl
@[simp] theorem timerStep_tacc (e : Nat) : (timerStep e s).tacc = (s.tacc + e) % s.tickInterval := rfl
@[simp] theorem timerStep_font (e : Nat) : (timerStep e s).font = s.font := rfl
@[simp] theorem timerStep_shiftUsesVy (e : Nat) : (timerStep e s).shiftUsesVy = s.shiftUsesVy := rfl
@[simp] theorem timerStep_tickInterval (e : Nat) : (timerStep e s).tickInterval = s.tickInterval := rfl
@[simp] theorem timerStep_pending (e : Nat) : (timerStep e s).pending = s.pending := rfl
@[simp] theorem timerStep_freeCycles (e : Nat) : (timerStep e s).freeCycles = s.freeCycles := rfl
@[simp] theorem timerStep_rndFeed (e : Nat) : (timerStep e s).rndFeed = s.rndFeed := rfl
@[simp] theorem timerStep_rndDraws (e : Nat) : (timerStep e s).rndDraws = s.rndDraws := rfl

/-! #### ackRedraw -/

@[simp] theorem ackRedraw_mem : (ackRedraw s).mem = s.mem := rfl
@[simp] theorem ackRedraw_v : (ackRedraw s).v = s.v := rfl
@[simp] theorem ackRedraw_i : (ackRedraw s).i = s.i := rfl
@[simp] theorem ackRedraw_pc : (ackRedraw s).pc = s.pc := rfl
@[simp] theorem ackRedraw_stk : (ackRedraw s).stk = s.stk := rfl
@[simp] theorem ackRedraw_sp : (ackRedraw s).sp = s.sp := rfl
@[simp] theorem ackRedraw_fb : (ackRedraw s).fb = s.fb := rfl
@[simp] theorem ackRedraw_key : (ackRedraw s).key = s.key := rfl
@[simp] theorem ackRedraw_dt : (ackRedraw s).dt = s.dt := rfl
@[simp] theorem ackRedraw_st : (ackRedraw s).st = s.st := rfl
@[simp] theorem ackRedraw_rdrw : (ackRedraw s).rdrw = false := rfl
@[simp] theorem ackRedraw_tacc : (ackRedraw s).tacc = s.tacc := rfl
@[simp] theorem ackRedraw_font : (ackRedraw s).font = s.font := rfl
@[simp] theorem ackRedraw_shiftUsesVy : (ackRedraw s).shiftUsesVy = s.shiftUsesVy := rfl
@[simp] theorem ackRedraw_tickInterval : (ackRedraw s).tickInterval = s.tickInterval := rfl
@[simp] theorem ackRedraw_pending : (ackRedraw s).pending = s.pending := rfl
@[simp] theorem ackRedraw_freeCycles : (ackRedraw s).freeCycles = s.freeCycles := rfl
@[simp] theorem ackRedraw_rndFeed : (ackRedraw s).rndFeed = s.rndFeed := rfl
@[simp] theorem ackRedraw_rndDraws : (ackRedraw s).rndDraws = s.rndDraws := rfl

/-! #### skipIf: only PC -/

@[simp] theorem skipIf_mem (c : Bool) : (s.skipIf c).mem = s.mem := by cases c <;> rfl
@[simp] theorem skipIf_v (c : Bool) : (s.skipIf c).v = s.v := by cases c <;> rfl
@[simp] theorem skipIf_i (c : Bool) : (s.skipIf c).i = s.i := by cases c <;> rfl
@[simp] theorem skipIf_pc (c : Bool) : (s.skipIf c).pc = if c then s.pc + 2#16 else s.pc := by
  cases c <;> rfl
@[simp] theorem skipIf_stk (c : Bool) : (s.skipIf c).stk = s.stk := by cases c <;> rfl
@[simp] theorem skipIf_sp (c : Bool) : (s.skipIf c).sp = s.sp := by cases c <;> rfl
@[simp] theorem skipIf_fb (c : Bool) : (s.skipIf c).fb = s.fb := by cases c <;> rfl
@[simp] theorem skipIf_key (c : Bool) : (s.skipIf c).key = s.key := by cases c <;> rfl
@[simp] theorem skipIf_dt (c : Bool) : (s.skipIf c).dt = s.dt := by cases c <;> rfl
@[simp] theorem skipIf_st (c : Bool) : (s.skipIf c).st = s.st := by cases c <;> rfl
@[simp] theorem skipIf_rdrw (c : Bool) : (s.skipIf c).rdrw = s.rdrw := by cases c <;> rfl
@[simp] theorem skipIf_tacc (c : Bool) : (s.skipIf c).tacc = s.tacc := by cases c <;> rfl
@[simp] theorem skipIf_font (c : Bool) : (s.skipIf c).font = s.font := by cases c <;> rfl
@[simp] theorem skipIf_shiftUsesVy (c : Bool) : (s.skipIf c).shiftUsesVy = s.shiftUsesVy := by cases c <;> rfl
@[simp] theorem skipIf_tickInterval (c : Bool) : (s.skipIf c).tickInterval = s.tickInterval := by cases c <;> rfl
@[simp] theorem skipIf_pending (c : Bool) : (s.skipIf c).pending = s.pending := by cases c <;> rfl
@[simp] theorem skipIf_freeCycles (c : Bool) : (s.skipIf c).freeCycles = s.freeCycles := by cases c <;> rfl
@[simp] theorem skipIf_rndFeed (c : Bool) : (s.skipIf c).rndFeed = s.rndFeed := by cases c <;> rfl
@[simp] theorem skipIf_rndDraws (c : Bool) : (s.skipIf c).rndDraws = s.rndDraws := by cases c <;> rfl

/-! #### storeBytes: only memory -/

@[simp] theorem storeBytes_v (a : Nat) (bs : List Byte) : (s.storeBytes a bs).v = s.v := by
  induction bs generalizing s a with
  | nil => rfl
  | cons b bs ih => exact (ih (s.storeByte a b) (a + 1)).trans rfl
@[simp] theorem storeBytes_i (a : Nat) (bs : List Byte) : (s.storeBytes a bs).i = s.i := by
  induction bs generalizing s a with
  | nil => rfl
  | cons b bs ih => exact (ih (s.storeByte a b) (a + 1)).trans rfl
@[simp] theorem storeBytes_pc (a : Nat) (bs : List Byte) : (s.storeBytes a bs).pc = s.pc := by
  induction bs generalizing s a with
  | nil => rfl
  | cons b bs ih => exact (ih (s.storeByte a b) (a + 1)).trans rfl
@[simp] theorem storeBytes_stk (a : Nat) (bs : List Byte) : (s.storeBytes a bs).stk = s.stk := by
  induction bs generalizing s a with
  | nil => rfl
  | cons b bs ih => exact (ih (s.storeByte a b) (a + 1)).trans rfl
@[simp] theorem storeBytes_sp (a : Nat) (bs : List Byte) : (s.storeBytes a bs).sp = s.sp := by
  induction bs generalizing s a with
  | nil => rfl
  | cons b bs ih => exact (ih (s.storeByte a b) (a + 1)).trans rfl
@[simp] theorem storeBytes_fb (a : Nat) (bs : List Byte) : (s.storeBytes a bs).fb = s.fb := by
  induction bs generalizing s a with
  | nil => rfl
  | cons b bs ih => exact (ih (s.storeByte a b) (a + 1)).trans rfl
@[simp] theorem storeBytes_key (a : Nat) (bs : List Byte) : (s.storeBytes a bs).key = s.key := by
  induction bs generalizing s a with
  | nil => rfl
  | cons b bs ih => exact (ih (s.storeByte a b) (a + 1)).trans rfl
@[simp] theorem storeBytes_dt (a : Nat) (bs : List Byte) : (s.storeBytes a bs).dt = s.dt := by
  induction bs generalizing s a with
  | nil => rfl
  | cons b bs ih => exact (ih (s.storeByte a b) (a + 1)).trans rfl
@[simp] theorem storeBytes_st (a : Nat) (bs : List Byte) : (s.storeBytes a bs).st = s.st := by
  induction bs generalizing s a with
  | nil => rfl
  | cons b bs ih => exact (ih (s.storeByte a b) (a + 1)).trans rfl
@[simp] theorem storeBytes_rdrw (a : Nat) (bs : List Byte) : (s.storeBytes a bs).rdrw = s.rdrw := by
  induction bs generalizing s a with
  | nil => rfl
  | cons b bs ih => exact (ih (s.storeByte a b) (a + 1)).trans rfl
@[simp] theorem storeBytes_tacc (a : Nat) (bs : List Byte) : (s.storeBytes a bs).tacc = s.tacc := by
  induction bs generalizing s a with
  | nil => rfl
  | cons b bs ih => exact (ih (s.storeByte a b) (a + 1)).trans rfl
@[simp] theorem storeBytes_font (a : Nat) (bs : List Byte) : (s.storeBytes a bs).font = s.font := by
  induction bs generalizing s a with
  | nil => rfl
  | cons b bs ih => exact (ih (s.storeByte a b) (a + 1)).trans rfl
@[simp] theorem storeBytes_shiftUsesVy (a : Nat) (bs : List Byte) : (s.storeBytes a bs).shiftUsesVy = s.shiftUsesVy := by
  induction bs generalizing s a with
  | nil => rfl
  | cons b bs ih => exact (ih (s.storeByte a b) (a + 1)).trans rfl
@[simp] theorem storeBytes_tickInterval (a : Nat) (bs : List Byte) : (s.storeBytes a bs).tickInterval = s.tickInterval := by
  induction bs generalizing s a with
  | nil => rfl
  | cons b bs ih => exact (ih (s.storeByte a b) (a + 1)).trans rfl
@[simp] theorem storeBytes_pending (a : Nat) (bs : List Byte) : (s.storeBytes a bs).pending = s.pending := by
  induction bs generalizing s a with
  | nil => rfl
  | cons b bs ih => exact (ih (s.storeByte a b) (a + 1)).trans rfl
@[simp] theorem storeBytes_freeCycles (a : Nat) (bs : List Byte) : (s.storeBytes a bs).freeCycles = s.freeCycles := by
  induction bs generalizing s a with
  | nil => rfl
  | cons b bs ih => exact (ih (s.storeByte a b) (a + 1)).trans rfl
@[simp] theorem storeBytes_rndFeed (a : Nat) (bs : List Byte) : (s.storeBytes a bs).rndFeed = s.rndFeed := by
  induction bs generalizing s a with
  | nil => rfl
  | cons b bs ih => exact (ih (s.storeByte a b) (a + 1)).trans rfl
@[simp] theorem storeBytes_rndDraws (a : Nat) (bs : List Byte) : (s.storeBytes a bs).rndDraws = s.rndDraws := by
  induction bs generalizing s a with
  | nil => rfl
  | cons b bs ih => exact (ih (s.storeByte a b) (a + 1)).trans rfl

/-! #### rndTaken: only the random source -/

@[simp] theorem rndTaken_mem : s.rndTaken.mem = s.mem := by
  unfold State.rndTaken; split <;> rfl
@[simp] theorem rndTaken_v : s.rndTaken.v = s.v := by
  unfold State.rndTaken; split <;> rfl
@[simp] theorem rndTaken_i : s.rndTaken.i = s.i := by
  unfold State.rndTaken; split <;> rfl
@[simp] theorem rndTaken_pc : s.rndTaken.pc = s.pc := by
  unfold State.rndTaken; split <;> rfl
@[simp] theorem rndTaken_stk : s.rndTaken.stk = s.stk := by
  unfold State.rndTaken; split <;> rfl
@[simp] theorem rndTaken_sp : s.rndTaken.sp = s.sp := by
  unfold State.rndTaken; split <;> rfl
@[simp] theorem rndTaken_fb : s.rndTaken.fb = s.fb := by
  unfold State.rndTaken; split <;> rfl
@[simp] theorem rndTaken_key : s.rndTaken.key = s.key := by
  unfold State.rndTaken; split <;> rfl
@[simp] theorem rndTaken_dt : s.rndTaken.dt = s.dt := by
  unfold State.rndTaken; split <;> rfl
@[simp] theorem rndTaken_st : s.rndTaken.st = s.st := by
  unfold State.rndTaken; split <;> rfl
@[simp] theorem rndTaken_rdrw : s.rndTaken.rdrw = s.rdrw := by
  unfold State.rndTaken; split <;> rfl
@[simp] theorem rndTaken_tacc : s.rndTaken.tacc = s.tacc := by
  unfold State.rndTaken; split <;> rfl
@[simp] theorem rndTaken_font : s.rndTaken.font = s.font := by
  unfold State.rndTaken; split <;> rfl
@[simp] theorem rndTaken_shiftUsesVy : s.rndTaken.shiftUsesVy = s.shiftUsesVy := by
  unfold State.rndTaken; split <;> rfl
@[simp] theorem rndTaken_tickInterval : s.rndTaken.tickInterval = s.tickInterval := by
  unfold State.rndTaken; split <;> rfl
@[simp] theorem rndTaken_pending : s.rndTaken.pending = s.pending := by
  unfold State.rndTaken; split <;> rfl
@[simp] theorem rndTaken_freeCycles : s.rndTaken.freeCycles = s.freeCycles := by
  unfold State.rndTaken; split <;> rfl

/-! #### powerOn: the parameters and the outside world's supply stay -/

@[simp] theorem powerOn_font : (powerOn s).font = s.font := rfl
@[simp] theorem powerOn_shiftUsesVy : (powerOn s).shiftUsesVy = s.shiftUsesVy := rfl
@[simp] theorem powerOn_tickInterval : (powerOn s).tickInterval = s.tickInterval := rfl
@[simp] theorem powerOn_pending : (powerOn s).pending = s.pending := rfl
@[simp] theorem powerOn_freeCycles : (powerOn s).freeCycles = s.freeCycles := rfl
@[simp] theorem powerOn_rndFeed : (powerOn s).rndFeed = s.rndFeed := rfl
@[simp] theorem powerOn_rndDraws : (powerOn s).rndDraws = s.rndDraws := rfl

end Sys2Proof.Machine
end

