-- ==== Sys2Proof/Laws/Memory.lean ====
section
/-! SUPPORT. The laws of memory: a read after a write, the canonical form, and blocks of bytes. -/

namespace Sys2Proof.Machine

variable {f : Config.Font}

/-! ### The canonical form -/

/-- The canonical form from a higher address on is the canonical form from a lower one. -/
theorem Memory.wfFrom_mono {m : Memory} {lo lo' : Nat} (h : Memory.wfFrom f lo m = true) (hle : lo' ≤ lo) :
    Memory.wfFrom f lo' m = true := by
  cases m with
  | nil => rfl
  | cons c m =>
    obtain ⟨k, b⟩ := c
    simp only [Memory.wfFrom, Bool.and_eq_true, decide_eq_true_eq] at h ⊢
    exact ⟨⟨⟨by omega, h.1.1.2⟩, h.1.2⟩, h.2⟩

/-- Below its first possible address a canonical memory lists nothing. -/
theorem Memory.get_below {m : Memory} {lo a : Nat} (h : Memory.wfFrom f lo m = true) (ha : a < lo) :
    m.get f a = Memory.unlisted f a := by
  cases m with
  | nil => rfl
  | cons c m =>
    obtain ⟨k, b⟩ := c
    simp only [Memory.wfFrom, Bool.and_eq_true, decide_eq_true_eq] at h
    simp [Memory.get, show a < k by omega]

/-- A cell put before a canonical memory keeps the canonical form. -/
theorem Memory.wfFrom_cell_append {m : Memory} {lo a : Nat} {b : Byte} (hlo : lo ≤ a) (ha : a ≤ Config.memTop)
    (h : Memory.wfFrom f (a + 1) m = true) : Memory.wfFrom f lo (Memory.cell f a b ++ m) = true := by
  unfold Memory.cell
  split
  · exact Memory.wfFrom_mono h (by omega)
  · rename_i hb
    simp [Memory.wfFrom, hlo, ha, h, hb]

/-- Replacing a byte inside memory keeps the canonical form. -/
theorem Memory.wfFrom_put {m : Memory} {lo a : Nat} {b : Byte} (h : Memory.wfFrom f lo m = true) (hlo : lo ≤ a)
    (ha : a ≤ Config.memTop) : Memory.wfFrom f lo (m.put f a b) = true := by
  induction m generalizing lo with
  | nil => simpa [Memory.put] using Memory.wfFrom_cell_append (m := []) (b := b) hlo ha rfl
  | cons c m ih =>
    obtain ⟨k, d⟩ := c
    have hc := h
    simp only [Memory.wfFrom, Bool.and_eq_true, decide_eq_true_eq] at h
    unfold Memory.put
    split
    · refine Memory.wfFrom_cell_append hlo ha ?_
      simp only [Memory.wfFrom, Bool.and_eq_true, decide_eq_true_eq]
      exact ⟨⟨⟨by omega, h.1.1.2⟩, h.1.2⟩, h.2⟩
    · split
      · subst a
        exact Memory.wfFrom_cell_append hlo ha h.2
      · simp only [Memory.wfFrom, Bool.and_eq_true, decide_eq_true_eq]
        exact ⟨h.1, ih h.2 (by omega)⟩

/-- `wf` form of `wfFrom_put`. -/
theorem Memory.wf_put {m : Memory} {a : Nat} {b : Byte} (h : m.wf f = true) (ha : a ≤ Config.memTop) :
    (m.put f a b).wf f = true := Memory.wfFrom_put h (Nat.zero_le a) ha

/-- Dropping everything below the program window keeps the canonical form. -/
theorem Memory.wfFrom_keepWindow {m : Memory} {lo : Nat} (h : Memory.wfFrom f lo m = true) :
    Memory.wfFrom f lo m.keepWindow = true := by
  induction m generalizing lo with
  | nil => rfl
  | cons c m ih =>
    obtain ⟨k, b⟩ := c
    simp only [Memory.wfFrom, Bool.and_eq_true, decide_eq_true_eq] at h
    unfold Memory.keepWindow at ih ⊢
    rw [List.filter_cons]
    split
    · simp only [Memory.wfFrom, Bool.and_eq_true, decide_eq_true_eq]
      exact ⟨h.1, ih h.2⟩
    · exact Memory.wfFrom_mono (ih h.2) (by omega)

/-- `wf` form of `wfFrom_keepWindow`. -/
theorem Memory.wf_keepWindow {m : Memory} (h : m.wf f = true) : m.keepWindow.wf f = true := Memory.wfFrom_keepWindow h

/-- The memory after reset is in canonical form, whatever the font. -/
theorem Memory.wf_reset : State.reset.mem.wf f = true := rfl

/-! ### What an unlisted address reads as -/

/-- In the font's place, the byte of the font (R45). -/
theorem Memory.unlisted_font {a : Nat} (h : a < 80) : Memory.unlisted f a = f[a] := dif_pos h

/-- Past the font, 0 (R27). -/
theorem Memory.unlisted_zero {a : Nat} (h : 80 ≤ a) : Memory.unlisted f a = 0#8 := dif_neg (Nat.not_lt.mpr h)

/-! ### A read after a write -/

/-- A read before the cells that follow. -/
theorem Memory.get_cell_append {m : Memory} {a c : Nat} {b : Byte} (h : Memory.wfFrom f (a + 1) m = true) :
    Memory.get f (Memory.cell f a b ++ m) c = if c = a then b else m.get f c := by
  unfold Memory.cell
  split
  · rename_i hb
    split
    · subst c
      rw [List.nil_append, Memory.get_below h (Nat.lt_succ_self a), hb]
    · rfl
  · simp only [List.cons_append, List.nil_append, Memory.get]
    split
    · rename_i hlt
      rw [if_neg (by omega), Memory.get_below h (by omega)]
    · rfl

/-- Reading after a write: the byte written at its address, the old byte everywhere else. -/
theorem Memory.get_put {m : Memory} {lo a c : Nat} {b : Byte} (h : Memory.wfFrom f lo m = true) :
    (m.put f a b).get f c = if c = a then b else m.get f c := by
  induction m generalizing lo with
  | nil =>
    have := Memory.get_cell_append (f := f) (m := []) (a := a) (c := c) (b := b) rfl
    simpa [Memory.put] using this
  | cons e m ih =>
    obtain ⟨k, d⟩ := e
    have hc := h
    simp only [Memory.wfFrom, Bool.and_eq_true, decide_eq_true_eq] at h
    unfold Memory.put
    split
    · refine Memory.get_cell_append ?_
      simp only [Memory.wfFrom, Bool.and_eq_true, decide_eq_true_eq]
      exact ⟨⟨⟨by omega, h.1.1.2⟩, h.1.2⟩, h.2⟩
    · split
      · subst a
        rw [Memory.get_cell_append h.2]
        split
        · rfl
        · rename_i hne
          simp only [Memory.get, hne, if_false]
          split
          · exact Memory.get_below h.2 (by omega)
          · rfl
      · simp only [Memory.get, ih h.2]
        split
        · rw [if_neg (by omega)]
        · split
          · rw [if_neg (by omega)]
          · rfl

/-- Reading after dropping everything below the program window. -/
theorem Memory.get_keepWindow {m : Memory} {lo a : Nat} (h : Memory.wfFrom f lo m = true) :
    m.keepWindow.get f a = if Config.progBase ≤ a then m.get f a else Memory.unlisted f a := by
  induction m generalizing lo with
  | nil => simp [Memory.keepWindow, Memory.get]
  | cons c m ih =>
    obtain ⟨k, b⟩ := c
    simp only [Memory.wfFrom, Bool.and_eq_true, decide_eq_true_eq] at h
    have ih' := ih h.2
    unfold Memory.keepWindow at ih' ⊢
    rw [List.filter_cons]
    by_cases hk : Config.progBase ≤ k
    · simp only [hk, decide_true, if_true, Memory.get, ih']
      by_cases h1 : a < k
      · simp [h1]
      · have h2 : Config.progBase ≤ a := by omega
        simp only [h1, if_false, h2, if_true]
    · simp only [hk, decide_false, Bool.false_eq_true, if_false, ih', Memory.get]
      split
      · rw [if_neg (by omega), if_neg (by omega)]
      · rfl

/-! ### The same of a state -/

/-- Reading a byte after storing one. -/
theorem byteAt_storeByte {s : State} (h : s.memWf = true) (a c : Nat) (b : Byte) :
    (s.storeByte a b).byteAt c = if c = a then b else s.byteAt c := Memory.get_put h

/-- Reading after `power_on`: the font of the state and 0 elsewhere (R27, R45). -/
@[simp] theorem byteAt_powerOn (s : State) (a : Nat) : (powerOn s).byteAt a = Memory.unlisted s.font a := rfl

/-- Reading after `reset()`: the program window as it was, the power-on contents below (R211). -/
theorem byteAt_resetOp {s : State} (h : s.memWf = true) (a : Nat) :
    (resetOp s).byteAt a = if Config.progBase ≤ a then s.byteAt a else Memory.unlisted s.font a := Memory.get_keepWindow h

/-- Storing a byte inside memory keeps the canonical form. -/
theorem storeByte_wf {s : State} (h : s.memWf = true) {a : Nat} (ha : a ≤ Config.memTop) (b : Byte) :
    (s.storeByte a b).memWf = true := Memory.wf_put h ha

/-- Storing a block inside memory keeps the canonical form. -/
theorem storeBytes_wf {s : State} (h : s.memWf = true) {a : Nat} {bs : List Byte} (hb : a + bs.length ≤ Config.memSize) :
    (s.storeBytes a bs).memWf = true := by
  induction bs generalizing s a with
  | nil => exact h
  | cons b bs ih =>
    simp only [List.length_cons] at hb
    exact ih (storeByte_wf h (by simp at hb ⊢; omega) b) (by omega)

/-- Reading a byte after storing a block inside memory: the block's byte within it, the old byte outside. -/
theorem byteAt_storeBytes {s : State} (h : s.memWf = true) {a : Nat} {bs : List Byte}
    (hb : a + bs.length ≤ Config.memSize) (c : Nat) :
    (s.storeBytes a bs).byteAt c = if a ≤ c ∧ c < a + bs.length then bs.getD (c - a) 0#8 else s.byteAt c := by
  induction bs generalizing s a with
  | nil => rw [if_neg (by simp)]; rfl
  | cons b bs ih =>
    simp only [List.length_cons] at hb ⊢
    rw [State.storeBytes, ih (storeByte_wf h (by simp at hb ⊢; omega) b) (by omega), byteAt_storeByte h]
    by_cases hca : c = a
    · subst c
      simp
    · by_cases h1 : a + 1 ≤ c ∧ c < a + 1 + bs.length
      · have h2 : a ≤ c ∧ c < a + (bs.length + 1) := by omega
        rw [if_pos h1, if_pos h2, show c - a = (c - (a + 1)) + 1 by omega, List.getD_cons_succ]
      · have h2 : ¬ (a ≤ c ∧ c < a + (bs.length + 1)) := by omega
        rw [if_neg h1, if_neg h2, if_neg hca]

/-- The block read back is as long as asked for. -/
@[simp] theorem bytesFrom_length (s : State) (a n : Nat) : (s.bytesFrom a n).length = n := by
  induction n generalizing a with
  | zero => rfl
  | succ n ih => simp [State.bytesFrom, ih]

/-- The bytes of a block. -/
theorem bytesFrom_getElem? (s : State) (a n k : Nat) (hk : k < n) : (s.bytesFrom a n)[k]? = some (s.byteAt (a + k)) := by
  induction n generalizing a k with
  | zero => omega
  | succ n ih =>
    cases k with
    | zero => simp [State.bytesFrom]
    | succ k =>
      simp only [State.bytesFrom, List.getElem?_cons_succ]
      rw [ih (a + 1) k (by omega), show a + 1 + k = a + (k + 1) by omega]

end Sys2Proof.Machine
end

