-- ==== Sys2Proof/Laws/Ops.lean ====
section
/-! SUPPORT. What each shared operation does, said once: registers, stack, guards, blocks of registers, cells of the display,
the fetch. -/

namespace Sys2Proof.Machine

/-! ### Registers -/

/-- Reading a register after a write. -/
theorem readV_writeV (s : State) (x r : Reg) (b : Byte) :
    (s.writeV x b).readV r = if r = x then b else s.readV r := by
  simp only [State.readV, State.writeV, Fin.getElem_fin, Vector.getElem_set]
  by_cases h : r = x
  · simp [h]
  · have : x.val ≠ r.val := fun hv => h (Fin.ext hv.symm)
    simp [h, this]

/-- Reading a register after a result and a flag have been written: the flag wins in VF (R13). -/
theorem readV_writeVFlag (s : State) (x r : Reg) (b : Byte) (f : Bool) :
    (s.writeVFlag x b f).readV r = if r = vf then bitByte f else if r = x then b else s.readV r := by
  rw [State.writeVFlag, readV_writeV, readV_writeV]

/-- States with the same registers read the same. -/
theorem readV_congr {s t : State} (h : t.v = s.v) (r : Reg) : t.readV r = s.readV r := by
  simp only [State.readV, h]

/-- States with the same memory and the same font read the same. -/
theorem byteAt_congr {s t : State} (h : t.mem = s.mem) (hf : t.font = s.font) (a : Nat) : t.byteAt a = s.byteAt a := by
  simp only [State.byteAt, h, hf]

/-- States with the same stack storage read the same. -/
theorem slot_congr {s t : State} (h : t.stk = s.stk) (k : Fin 16) : t.slot k = s.slot k := by
  simp only [State.slot, h]

/-- States with the same keys read the same. -/
theorem keyDown_congr {s t : State} (h : t.key = s.key) (k : Fin 16) : t.keyDown k = s.keyDown k := by
  simp only [State.keyDown, h]

/-- Reading a register after a block of registers has been loaded. -/
theorem readV_loadFirstRegs (s : State) (x r : Reg) :
    (s.loadFirstRegs x).readV r = if r ≤ x then s.byteAt (s.indexed r.val) else s.readV r := by
  simp [State.readV, State.loadFirstRegs]

/-- The list of the registers is in order. -/
theorem allRegs_getElem? (k : Reg) : allRegs[k.val]? = some k := by revert k; decide

/-- The list of the registers has them all. -/
theorem mem_allRegs (k : Reg) : k ∈ allRegs := by revert k; decide

/-- As many registers as asked for. -/
@[simp] theorem firstRegs_length (s : State) (x : Reg) : (s.firstRegs x).length = x.val + 1 := by
  simp [State.firstRegs, allRegs]; omega

/-- The registers in order. -/
theorem firstRegs_getD (s : State) (x k : Reg) (h : k ≤ x) : (s.firstRegs x).getD k.val 0#8 = s.readV k := by
  have hk : k.val < x.val + 1 := Nat.lt_succ_of_le h
  simp [State.firstRegs, List.getD_eq_getElem?_getD, List.getElem?_map, hk, allRegs_getElem?]

/-- The first pressed key is the least (R142). -/
theorem firstKey?_eq_some {s : State} {k : Fin 16} (h : s.firstKey? = some k) :
    s.keyDown k = true ∧ ∀ j : Fin 16, j < k → s.keyDown j = false := by
  unfold State.firstKey? at h
  rw [List.find?_eq_some_iff_append] at h
  obtain ⟨hk, as, bs, hab, hbefore⟩ := h
  refine ⟨hk, fun j hj => ?_⟩
  have hjmem : j ∈ as := by
    have hpw : (as ++ k :: bs).Pairwise (· < ·) := hab ▸ (by decide : allRegs.Pairwise (· < ·))
    have hmem : j ∈ as ++ k :: bs := hab ▸ mem_allRegs j
    rw [List.mem_append, List.mem_cons] at hmem
    rcases hmem with h | h | h
    · exact h
    · omega
    · rw [List.pairwise_append, List.pairwise_cons] at hpw
      have := hpw.2.1.1 j h
      omega
  simpa using hbefore j hjmem

/-- No key is pressed when none is found (R142). -/
theorem firstKey?_eq_none {s : State} : s.firstKey? = none ↔ ∀ k : Fin 16, s.keyDown k = false := by
  unfold State.firstKey?
  rw [List.find?_eq_none]
  constructor
  · intro h k
    simpa using h k (mem_allRegs k)
  · intro h k _
    simp [h k]

/-! ### Stack -/

/-- A push succeeds below the bound (R103). -/
theorem push?_eq_some {s t : State} {w : Word} (h : s.push? w = some t) :
    ∃ hlt : s.sp.val < 16, t = { s with stk := s.stk.set s.sp.val w, sp := ⟨s.sp.val + 1, Nat.succ_lt_succ hlt⟩ } := by
  unfold State.push? at h
  split at h
  · rename_i hlt
    exact ⟨hlt, (Option.some.inj h).symm⟩
  · cases h

/-- A push fails exactly on a full stack (R103). -/
theorem push?_eq_none {s : State} {w : Word} : s.push? w = none ↔ s.sp.val = 16 := by
  unfold State.push?
  split
  · rename_i h
    simp at h ⊢
    omega
  · rename_i h
    simp at h ⊢
    omega

/-- A pop uncovers the newest live entry (R100). -/
theorem pop?_eq_some {s t : State} {w : Word} (h : s.pop? = some (w, t)) :
    ∃ k : Fin 16, s.sp.val = k.val + 1 ∧ w = s.slot k ∧ t = { s with sp := k.castSucc } := by
  unfold State.pop? at h
  split at h
  · cases h
  · rename_i k hk heq
    simp only [Option.some.injEq, Prod.mk.injEq] at h
    exact ⟨⟨k, Nat.lt_of_succ_lt_succ hk⟩, by rw [heq], h.1.symm, h.2.symm⟩

/-- A pop fails exactly on an empty stack (R100). -/
theorem pop?_eq_none {s : State} : s.pop? = none ↔ s.sp.val = 0 := by
  unfold State.pop?
  split
  · rename_i h; simp [h]
  · rename_i h; simp [h]

/-- Reading a slot after one has been set. -/
theorem getElem_stk_set (stk : Vector Word 16) (n : Nat) (hn : n < 16) (w : Word) (k : Fin 16) :
    (stk.set n w)[k] = if k.val = n then w else stk[k] := by
  simp only [Fin.getElem_fin, Vector.getElem_set]
  by_cases h : k.val = n
  · simp [h]
  · simp [h, Ne.symm h]

/-! ### Guards -/

/-- A block inside memory (R154, R174). -/
theorem blockFault_eq_none {base len : Nat} : blockFault base len = none ↔ len = 0 ∨ base + len ≤ 0x1000 := by
  unfold blockFault
  split <;> simp at * <;> omega

/-- A block that leaves memory, and the lowest address that does (R154, R174). -/
theorem blockFault_eq_some {base len a : Nat} :
    blockFault base len = some a ↔ len ≠ 0 ∧ 0x1000 < base + len ∧ a = max base 0x1000 := by
  unfold blockFault
  split <;> simp at * <;> omega

/-- A guarded block either runs or raises `MemoryOutOfBounds`. -/
theorem guardBlock_cases (len : Nat) (acc : Access) (i : Instr) (s k : State) :
    ((len = 0 ∨ s.i.toNat + len ≤ 0x1000) ∧ guardBlock len acc i s k = .next k) ∨
    ((len ≠ 0 ∧ 0x1000 < s.i.toNat + len) ∧ guardBlock len acc i s k =
      .fault (.memoryOutOfBounds s.pc0 (some (encode i)) (max s.i.toNat 0x1000) acc)) := by
  unfold guardBlock
  cases h : blockFault s.i.toNat len with
  | none => exact .inl ⟨blockFault_eq_none.mp h, rfl⟩
  | some a =>
    obtain ⟨h1, h2, rfl⟩ := blockFault_eq_some.mp h
    exact .inr ⟨⟨h1, h2⟩, rfl⟩

/-- A guarded key code either runs or raises `KeyIndexOutOfBounds`. -/
theorem guardKey_cases (code : Byte) (i : Instr) (s : State) (k : Fin 16 → State) :
    (∃ h : code.toNat < 16, guardKey code i s k = .next (k ⟨code.toNat, h⟩)) ∨
    (15 < code.toNat ∧ guardKey code i s k = .fault (.keyIndexOutOfBounds s.pc0 (encode i) code)) := by
  unfold guardKey
  split
  · rename_i h
    exact .inl ⟨h, rfl⟩
  · rename_i h
    exact .inr ⟨by omega, rfl⟩

/-! ### The cells of the display -/

/-- A cell after another has been flipped. -/
theorem cellAt_flipCell (d : Display) (y r : Fin 32) (x c : Fin 64) :
    cellAt (flipCell d y x) r c = if r = y ∧ c = x then !cellAt d r c else cellAt d r c := by
  simp only [cellAt, flipCell, Fin.getElem_fin, Vector.getElem_set]
  by_cases hr : r = y
  · subst hr
    by_cases hc : c = x
    · subst hc; simp
    · have : x.val ≠ c.val := fun h => hc (Fin.ext h.symm)
      simp [hc, this]
  · have : y.val ≠ r.val := fun h => hr (Fin.ext h.symm)
    simp [hr, this]

/-- Every cell of a blank display is unset. -/
@[simp] theorem cellAt_blank (y : Fin 32) (x : Fin 64) : cellAt blankDisplay y x = false := by
  simp [cellAt, blankDisplay]

/-! ### Fetch -/

/-- A fetch inside memory reads the two bytes at PC (R43). -/
theorem fetch_in {s : State} (h : s.pc.toNat + 1 ≤ 0xFFF) :
    fetch s = .ok (wordOfBytes (s.byteAt s.pc.toNat) (s.byteAt (s.pc.toNat + 1))) := by
  simp [fetch, State.memRead, show s.pc.toNat ≤ 4095 by omega, show s.pc.toNat + 1 ≤ 4095 by omega]

/-- A fetch that succeeds was inside memory. -/
theorem fetch_eq_ok {s : State} {w : Word} (h : fetch s = .ok w) :
    s.pc.toNat + 1 ≤ 0xFFF ∧ w = wordOfBytes (s.byteAt s.pc.toNat) (s.byteAt (s.pc.toNat + 1)) := by
  by_cases hp : s.pc.toNat + 1 ≤ 0xFFF
  · exact ⟨hp, by rw [fetch_in hp] at h; exact (Except.ok.inj h).symm⟩
  · exfalso
    unfold fetch State.memRead at h
    simp at h
    split at h
    · cases h
    · rw [if_neg (by omega)] at h
      cases h

/-- PC advanced and taken back is the address of the instruction (R15). -/
@[simp] theorem pc0_advance (s : State) : s.advance.pc0 = s.pc := by
  simp [State.pc0]

end Sys2Proof.Machine
end

