-- ==== Sys2Proof/Laws/Frames.lean ====
section
/-! SUPPORT. The frame of each shared update: which parts it keeps. -/

namespace Sys2Proof.Machine

variable {s : State} {touched : StatePart → Prop}

/-- Other contents of the registers that agree outside the touched ones. -/
theorem keepsAllBut_of_v {v' : Vector Byte 16} (h : ∀ r : Reg, ¬ touched (.v r) → v'[r] = s.v[r]) :
    KeepsAllBut touched s { s with v := v' } := by
  intro p hp
  cases p <;> first | rfl | exact h _ hp

/-- Writing a register keeps everything else. -/
theorem keepsAllBut_writeV {x : Reg} {b : Byte} (h : touched (.v x)) : KeepsAllBut touched s (s.writeV x b) := by
  apply keepsAllBut_of_v
  intro r hr
  have := readV_writeV s x r b
  simp only [State.readV, State.writeV] at this
  rw [this, if_neg]
  rintro rfl
  exact hr h

/-- Writing a register and then VF keeps everything else. -/
theorem keepsAllBut_writeVFlag {x : Reg} {b : Byte} {f : Bool} (h : touched (.v x)) (hf : touched (.v vf)) :
    KeepsAllBut touched s (s.writeVFlag x b f) := by
  intro p hp
  have first := keepsAllBut_writeV (s := s) (b := b) h p hp
  have second := keepsAllBut_writeV (s := s.writeV x b) (b := bitByte f) hf p hp
  cases p <;> exact Eq.trans second first

/-- Writing PC keeps everything else. -/
theorem keepsAllBut_setPc {w : Word} (h : touched .pc) : KeepsAllBut touched s (s.setPc w) := by
  intro p hp
  cases p <;> first | rfl | exact absurd h hp

/-- A skip keeps everything but PC. -/
theorem keepsAllBut_skipIf {c : Bool} (h : touched .pc) : KeepsAllBut touched s (s.skipIf c) := by
  cases c
  · intro p _
    cases p <;> rfl
  · exact keepsAllBut_setPc h

/-- Storing a block inside memory keeps everything but its bytes. -/
theorem keepsAllBut_storeBytes {a : Nat} {bs : List Byte} (hwf : s.memWf = true) (hb : a + bs.length ≤ Config.memSize)
    (h : ∀ c, a ≤ c → c < a + bs.length → touched (.mem c)) : KeepsAllBut touched s (s.storeBytes a bs) := by
  intro p hp
  cases p with
  | mem c =>
    simp only [StatePart.same]
    rw [byteAt_storeBytes hwf hb, if_neg fun hc => hp (h c hc.1 hc.2)]
  | v r => exact readV_congr (storeBytes_v ..) r
  | slot k => exact slot_congr (storeBytes_stk ..) k
  | key k => exact keyDown_congr (storeBytes_key ..) k
  | _ => simp only [StatePart.same, storeBytes_i, storeBytes_pc, storeBytes_sp, storeBytes_fb, storeBytes_dt, storeBytes_st,
      storeBytes_rdrw, storeBytes_tacc, storeBytes_font, storeBytes_shiftUsesVy, storeBytes_tickInterval, storeBytes_pending,
      storeBytes_freeCycles, storeBytes_rndFeed, storeBytes_rndDraws]

/-- A guarded block that completes was inside memory, and ends in its continuation. -/
theorem guardBlock_eq_next {len : Nat} {acc : Access} {i : Instr} {k t : State} (h : guardBlock len acc i s k = .next t) :
    (len = 0 ∨ s.i.toNat + len ≤ 0x1000) ∧ t = k := by
  rcases guardBlock_cases len acc i s k with ⟨hin, heq⟩ | ⟨_, heq⟩
  · rw [heq] at h
    cases h
    exact ⟨hin, rfl⟩
  · rw [heq] at h
    cases h

/-- A guarded key that completes was a key code, and ends in its continuation. -/
theorem guardKey_eq_next {code : Byte} {i : Instr} {t : State} {k : Fin 16 → State} (h : guardKey code i s k = .next t) :
    ∃ hlt : code.toNat < 16, t = k ⟨code.toNat, hlt⟩ := by
  rcases guardKey_cases code i s k with ⟨hlt, heq⟩ | ⟨_, heq⟩
  · rw [heq] at h
    cases h
    exact ⟨hlt, rfl⟩
  · rw [heq] at h
    cases h

end Sys2Proof.Machine
end

