-- ==== Sys2Proof/Laws/PerInstr.lean ====
section
/-! SUPPORT. Statements made of every instruction, one lemma for each constructor. -/

namespace Sys2Proof.Laws.GroupNibble

/-- The word of a well-formed instruction is in the group of its row of the opcode table (spec/30_encoding.md R61, R68). -/
def Statement (i : Instr) : Prop := i.wellFormed = true → groupOf (encode i) = groupOf (rowOf i).2

/-- A word of the row `m` is in group `g`. -/
def inGroup (g : Nat) (m : Word) : Bool := decide (g < 16) && decide (m.toNat / 4096 = g)

/-- Two words of one group, by their numbers. -/
theorem group_eq {g : Nat} {w m : Word} (hw : w.toNat / 4096 = g) (hm : m.toNat / 4096 = g) : groupOf w = groupOf m :=
  BitVec.eq_of_toNat_eq (by rw [groupOf_toNat, groupOf_toNat, hw, hm])

theorem of_xyn (g n : Nat) (x y : Reg) (m : Word) (hm : inGroup g m = true) (hn : n < 16) :
    groupOf (packXYN g x y n) = groupOf m := by
  simp only [inGroup, Bool.and_eq_true, decide_eq_true_eq] at hm
  exact group_eq (by rw [packXYN_toNat hm.1 x.isLt y.isLt hn]; omega) hm.2

theorem of_xnn (g nn : Nat) (x : Reg) (m : Word) (hm : inGroup g m = true) (hn : nn < 256) :
    groupOf (packXNN g x nn) = groupOf m := by
  simp only [inGroup, Bool.and_eq_true, decide_eq_true_eq] at hm
  exact group_eq (by rw [packXNN_toNat hm.1 x.isLt hn]; omega) hm.2

theorem of_nnn (g : Nat) (nnn : Addr12) (m : Word) (hm : inGroup g m = true) :
    groupOf (packNNN g nnn.toNat) = groupOf m := by
  simp only [inGroup, Bool.and_eq_true, decide_eq_true_eq] at hm
  exact group_eq (by rw [packNNN_toNat hm.1 nnn.isLt]; omega) hm.2

theorem cls : Statement (.cls) := fun _ => rfl
theorem ret : Statement (.ret) := fun _ => rfl
theorem halt : Statement (.halt) := fun _ => rfl
theorem jp (nnn : Addr12) : Statement (.jp nnn) := fun _ => of_nnn 0x1 nnn 0x1000#16 rfl
theorem call (nnn : Addr12) : Statement (.call nnn) := fun _ => of_nnn 0x2 nnn 0x2000#16 rfl
theorem seImm (x : Reg) (nn : Byte) : Statement (.seImm x nn) := fun _ => of_xnn 0x3 nn.toNat x 0x3000#16 rfl nn.isLt
theorem sneImm (x : Reg) (nn : Byte) : Statement (.sneImm x nn) := fun _ => of_xnn 0x4 nn.toNat x 0x4000#16 rfl nn.isLt
theorem seReg (x : Reg) (y : Reg) : Statement (.seReg x y) := fun _ => of_xyn 0x5 0x0 x y 0x5000#16 rfl (Nat.le_of_ble_eq_true rfl)
theorem ldImm (x : Reg) (nn : Byte) : Statement (.ldImm x nn) := fun _ => of_xnn 0x6 nn.toNat x 0x6000#16 rfl nn.isLt
theorem addImm (x : Reg) (nn : Byte) : Statement (.addImm x nn) := fun _ => of_xnn 0x7 nn.toNat x 0x7000#16 rfl nn.isLt
theorem ldReg (x : Reg) (y : Reg) : Statement (.ldReg x y) := fun _ => of_xyn 0x8 0x0 x y 0x8000#16 rfl (Nat.le_of_ble_eq_true rfl)
theorem orReg (x : Reg) (y : Reg) : Statement (.orReg x y) := fun _ => of_xyn 0x8 0x1 x y 0x8001#16 rfl (Nat.le_of_ble_eq_true rfl)
theorem andReg (x : Reg) (y : Reg) : Statement (.andReg x y) := fun _ => of_xyn 0x8 0x2 x y 0x8002#16 rfl (Nat.le_of_ble_eq_true rfl)
theorem xorReg (x : Reg) (y : Reg) : Statement (.xorReg x y) := fun _ => of_xyn 0x8 0x3 x y 0x8003#16 rfl (Nat.le_of_ble_eq_true rfl)
theorem addReg (x : Reg) (y : Reg) : Statement (.addReg x y) := fun _ => of_xyn 0x8 0x4 x y 0x8004#16 rfl (Nat.le_of_ble_eq_true rfl)
theorem subReg (x : Reg) (y : Reg) : Statement (.subReg x y) := fun _ => of_xyn 0x8 0x5 x y 0x8005#16 rfl (Nat.le_of_ble_eq_true rfl)
theorem shr (x : Reg) (y : Reg) : Statement (.shr x y) := fun _ => of_xyn 0x8 0x6 x y 0x8006#16 rfl (Nat.le_of_ble_eq_true rfl)
theorem subnReg (x : Reg) (y : Reg) : Statement (.subnReg x y) := fun _ => of_xyn 0x8 0x7 x y 0x8007#16 rfl (Nat.le_of_ble_eq_true rfl)
theorem shl (x : Reg) (y : Reg) : Statement (.shl x y) := fun _ => of_xyn 0x8 0xE x y 0x800E#16 rfl (Nat.le_of_ble_eq_true rfl)
theorem sneReg (x : Reg) (y : Reg) : Statement (.sneReg x y) := fun _ => of_xyn 0x9 0x0 x y 0x9000#16 rfl (Nat.le_of_ble_eq_true rfl)
theorem ldI (nnn : Addr12) : Statement (.ldI nnn) := fun _ => of_nnn 0xA nnn 0xA000#16 rfl
theorem jpV0 (nnn : Addr12) : Statement (.jpV0 nnn) := fun _ => of_nnn 0xB nnn 0xB000#16 rfl
theorem rnd (x : Reg) (nn : Byte) : Statement (.rnd x nn) := fun _ => of_xnn 0xC nn.toNat x 0xC000#16 rfl nn.isLt
theorem drw (x : Reg) (y : Reg) (n : Nat) : Statement (.drw x y n) := fun h => of_xyn 0xD n x y 0xD000#16 rfl (of_decide_eq_true h)
theorem skp (x : Reg) : Statement (.skp x) := fun _ => of_xnn 0xE 0x9E x 0xE09E#16 rfl (Nat.le_of_ble_eq_true rfl)
theorem sknp (x : Reg) : Statement (.sknp x) := fun _ => of_xnn 0xE 0xA1 x 0xE0A1#16 rfl (Nat.le_of_ble_eq_true rfl)
theorem ldVxDT (x : Reg) : Statement (.ldVxDT x) := fun _ => of_xnn 0xF 0x07 x 0xF007#16 rfl (Nat.le_of_ble_eq_true rfl)
theorem ldVxK (x : Reg) : Statement (.ldVxK x) := fun _ => of_xnn 0xF 0x0A x 0xF00A#16 rfl (Nat.le_of_ble_eq_true rfl)
theorem ldDTVx (x : Reg) : Statement (.ldDTVx x) := fun _ => of_xnn 0xF 0x15 x 0xF015#16 rfl (Nat.le_of_ble_eq_true rfl)
theorem ldSTVx (x : Reg) : Statement (.ldSTVx x) := fun _ => of_xnn 0xF 0x18 x 0xF018#16 rfl (Nat.le_of_ble_eq_true rfl)
theorem addI (x : Reg) : Statement (.addI x) := fun _ => of_xnn 0xF 0x1E x 0xF01E#16 rfl (Nat.le_of_ble_eq_true rfl)
theorem ldF (x : Reg) : Statement (.ldF x) := fun _ => of_xnn 0xF 0x29 x 0xF029#16 rfl (Nat.le_of_ble_eq_true rfl)
theorem ldB (x : Reg) : Statement (.ldB x) := fun _ => of_xnn 0xF 0x33 x 0xF033#16 rfl (Nat.le_of_ble_eq_true rfl)
theorem storeRegs (x : Reg) : Statement (.storeRegs x) := fun _ => of_xnn 0xF 0x55 x 0xF055#16 rfl (Nat.le_of_ble_eq_true rfl)
theorem loadRegs (x : Reg) : Statement (.loadRegs x) := fun _ => of_xnn 0xF 0x65 x 0xF065#16 rfl (Nat.le_of_ble_eq_true rfl)

end Sys2Proof.Laws.GroupNibble
end

