-- ==== Sys2Proof/Laws/Step.lean ====
section
/-! SUPPORT. What a cycle, an operation of the host and a step can do, said once. -/

namespace Sys2Proof.Machine

/-- A cycle that completes: a fetch, an execution on the advanced PC, a timer step (R63). -/
theorem cycle_eq_next {e : Nat} {s t : State} (h : cycle e s = .next t) :
    ∃ w u, fetch s = .ok w ∧ execWord w s.advance = .next u ∧ t = timerStep e u := by
  unfold cycle at h
  split at h
  · cases h
  · rename_i w hw
    split at h
    · rename_i u hu
      cases h
      exact ⟨w, u, hw, hu, rfl⟩
    · cases h
    · cases h

/-- A cycle that faults: in the fetch, or in the execution (R178). -/
theorem cycle_eq_fault {e : Nat} {s : State} {f : Fault} (h : cycle e s = .fault f) :
    fetch s = .error f ∨ ∃ w, fetch s = .ok w ∧ execWord w s.advance = .fault f := by
  unfold cycle at h
  split at h
  · rename_i g hg
    cases h
    exact .inl hg
  · rename_i w hw
    split at h
    · cases h
    · rename_i g hg
      cases h
      exact .inr ⟨w, hw, hg⟩
    · cases h

/-- Executing a word: its instruction, or nothing (R70). -/
theorem execWord_cases (w : Word) (s : State) :
    (∃ i, decode w = .ok i ∧ execWord w s = exec i s) ∨ (∃ r, decode w = .error r ∧ execWord w s = .next s) := by
  unfold execWord
  split
  · rename_i i hi
    exact .inl ⟨i, hi, rfl⟩
  · rename_i r hr
    exact .inr ⟨r, hr, rfl⟩

/-- A cycle on a fetched word that decodes: the instruction on the advanced PC, and after a completion the timer step (R63). -/
theorem cycle_of_decoded {s : State} {w : Word} {i : Instr} (e : Nat) (hf : fetch s = .ok w) (hd : decode w = .ok i) :
    cycle e s = thenTimers e (exec i s.advance) := by
  simp only [cycle, hf, execWord, hd]
  rfl

/-- A valid instruction reports no diagnostic (R182). -/
theorem diagnostic_of_decoded {s : State} {w : Word} {i : Instr} (hf : fetch s = .ok w) (hd : decode w = .ok i) :
    diagnostic s = none := by
  simp only [diagnostic, hf, hd]

/-- Waiting by re-execution undoes the advance of PC (R198). -/
theorem rewind_advance (s : State) : s.advance.rewind = s := by
  simp only [State.rewind, pc0_advance]
  rfl

/-- A step with no operation pending is a cycle whose time is a free value. -/
theorem step_of_no_pending {s : State} (h : s.pending = []) :
    step s = cycle (Config.freeElapsed s.freeCycles) { s with freeCycles := s.freeCycles + 1 } := by
  simp [step, stepOp, nextOp, h]

/-- A step whose first pending operation is a cycle. -/
theorem step_of_pending_cycle {s : State} {e : Nat} {ops : List HostOp} (h : s.pending = .cycle e :: ops) :
    step s = cycle e { s with pending := ops } := by
  simp [step, stepOp, nextOp, h]

/-- A step that completes is a cycle, or another operation of the host, from the state without that operation. -/
theorem step_eq_next {s t : State} (h : step s = .next t) :
    (∃ e, (nextOp s).1 = .cycle e ∧ cycle e (nextOp s).2 = .next t) ∨
    ((∀ e, (nextOp s).1 ≠ .cycle e) ∧ t = (perform (nextOp s).1 (nextOp s).2).2) := by
  unfold step stepOp at h
  split at h
  · rename_i e u heq
    exact .inl ⟨e, by rw [heq], by rw [heq]; exact h⟩
  · rename_i op u hne heq
    cases h
    refine .inr ⟨fun e he => ?_, by rw [heq]⟩
    rw [heq] at he
    exact hne e he

end Sys2Proof.Machine
end

