-- ==== Sys2Proof/Laws/Timers.lean ====
section
/-! SUPPORT. The timers as numbers (spec/60_exceptions.md R186). -/

namespace Sys2Proof.Machine

/-- A tick takes 1, never below 0. -/
theorem tick_toNat (b : Byte) : (tick b).toNat = b.toNat - 1 := by
  unfold tick
  have := b.isLt
  split
  · rw [BitVec.toNat_sub_of_le (by rw [BitVec.le_def]; simp; omega)]
    rfl
  · omega

/-- `k` ticks take `k`, never below 0. -/
theorem ticks_toNat (k : Nat) (b : Byte) : (ticks k b).toNat = b.toNat - k := by
  induction k generalizing b with
  | zero => rfl
  | succ k ih =>
    rw [ticks, ih, tick_toNat]
    omega

end Sys2Proof.Machine
end

