-- ==== Sys2Proof/Laws/Words.lean ====
section
/-! SUPPORT. The bit patterns of R61 and the packed words are the same words, and the fields of a packed word. -/

namespace Sys2Proof.Machine

/-- The pattern `{group, x, nn}`. -/
theorem wordXNN_eq_pack {g : Nat} (hg : g < 16) (x : Reg) (nn : Byte) :
    wordXNN (BitVec.ofNat 4 g) x nn = packXNN g x nn.toNat := by
  apply BitVec.eq_of_toNat_eq
  have hx := x.isLt
  have hn := nn.isLt
  rw [packXNN_toNat hg hx hn]
  simp only [wordXNN, BitVec.toNat_append, BitVec.toNat_ofFin, BitVec.toNat_ofNat]
  rw [← Nat.shiftLeft_add_eq_or_of_lt (by omega), ← Nat.shiftLeft_add_eq_or_of_lt (by omega)]
  simp only [Nat.shiftLeft_eq]
  omega

/-- The pattern `{group, x, y, n}`. -/
theorem wordXYN_eq_pack {g : Nat} (hg : g < 16) (x y : Reg) (n : BitVec 4) :
    wordXYN (BitVec.ofNat 4 g) x y n = packXYN g x y n.toNat := by
  apply BitVec.eq_of_toNat_eq
  have hx := x.isLt
  have hy := y.isLt
  have hn := n.isLt
  have low := Nat.shiftLeft_add_eq_or_of_lt (i := 4) (b := n.toNat) (by omega) y.val
  have high := Nat.shiftLeft_add_eq_or_of_lt (i := 4) (b := x.val) (by omega) (g % 2 ^ 4)
  rw [packXYN_toNat hg hx hy (by omega)]
  simp only [wordXYN, BitVec.toNat_append, BitVec.toNat_ofFin, BitVec.toNat_ofNat]
  rw [← low, ← high, ← Nat.shiftLeft_add_eq_or_of_lt (by simp only [Nat.shiftLeft_eq]; omega)]
  simp only [Nat.shiftLeft_eq]
  omega

/-- The pattern `{group, nnn}`. -/
theorem wordNNN_eq_pack {g : Nat} (hg : g < 16) (nnn : Addr12) :
    wordNNN (BitVec.ofNat 4 g) nnn = packNNN g nnn.toNat := by
  apply BitVec.eq_of_toNat_eq
  have hn := nnn.isLt
  rw [packNNN_toNat hg hn]
  simp only [wordNNN, BitVec.toNat_append, BitVec.toNat_ofNat]
  rw [← Nat.shiftLeft_add_eq_or_of_lt (by omega)]
  simp only [Nat.shiftLeft_eq]
  omega

/-- The fields of a word that is `{group, nnn}` as a number. -/
theorem fields_of_nnn {w : Word} {g : Nat} {nnn : Addr12} (h : w.toNat = g * 4096 + nnn.toNat) :
    (groupOf w).toNat = g ∧ nnnOf w = nnn := by
  have hn := nnn.isLt
  exact ⟨by rw [groupOf_toNat]; omega, BitVec.eq_of_toNat_eq (by rw [nnnOf_toNat]; omega)⟩

/-- The fields of a word that is `{group, x, nn}` as a number. -/
theorem fields_of_xnn {w : Word} {g : Nat} {x : Reg} {nn : Byte} (h : w.toNat = g * 4096 + x.val * 256 + nn.toNat) :
    (groupOf w).toNat = g ∧ xOf w = x ∧ nnOf w = nn := by
  have hx := x.isLt
  have hn := nn.isLt
  exact ⟨by rw [groupOf_toNat]; omega, Fin.ext (by rw [xOf_val]; omega), BitVec.eq_of_toNat_eq (by rw [nnOf_toNat]; omega)⟩

/-- The fields of a word that is `{group, x, y, n}` as a number. -/
theorem fields_of_xyn {w : Word} {g n : Nat} {x y : Reg} (hn : n < 16)
    (h : w.toNat = g * 4096 + x.val * 256 + y.val * 16 + n) :
    (groupOf w).toNat = g ∧ xOf w = x ∧ yOf w = y ∧ nOf w = n := by
  have hx := x.isLt
  have hy := y.isLt
  exact ⟨by rw [groupOf_toNat]; omega, Fin.ext (by rw [xOf_val]; omega), Fin.ext (by rw [yOf_val]; omega),
    by rw [nOf_eq]; omega⟩

end Sys2Proof.Machine
end

