-- ==== Sys2Proof/Tests/Slice0.lean ====
section
/-! SUPPORT. Tests of the model: the smoke of WellFormed, one word of each instruction written out from the pattern of R68,
one or two steps of each instruction from spec/95_test_vectors.md (the vector is named at each), faults, host operations; and
for each statement with hypotheses a witness that meets them, at a boundary where there is one. -/

namespace Sys2Proof.Tests

open Sys2Proof Sys2Proof.Machine

/-! ### Well-formedness and decoding -/

theorem test_wellFormed_refuses_sixteen_rows : (Instr.drw 0 0 16).wellFormed = false := by decide
theorem test_wellFormed_accepts_fifteen_rows : (Instr.drw 0 0 15).wellFormed = true := by decide

theorem test_decode_control :
    decode 0b0000000011101110#16 = .ok .ret ∧ decode 0b0000000000000000#16 = .ok .halt ∧
    decode 0b0001101010111100#16 = .ok (.jp 0xABC#12) ∧ decode 0b0010101010111100#16 = .ok (.call 0xABC#12) ∧
    decode 0b0011001101000010#16 = .ok (.seImm 3 0x42#8) ∧ decode 0b0100001101000011#16 = .ok (.sneImm 3 0x43#8) ∧
    decode 0b0101000100100000#16 = .ok (.seReg 1 2) ∧ decode 0b1001000100100000#16 = .ok (.sneReg 1 2) ∧
    decode 0b1011001100000000#16 = .ok (.jpV0 0x300#12) := by decide

theorem test_decode_alu :
    decode 0b0110101001111111#16 = .ok (.ldImm 10 0x7F#8) ∧ decode 0b0111000100000010#16 = .ok (.addImm 1 0x02#8) ∧
    decode 0b1000000100100000#16 = .ok (.ldReg 1 2) ∧ decode 0b1000000100100001#16 = .ok (.orReg 1 2) ∧
    decode 0b1000000100100010#16 = .ok (.andReg 1 2) ∧ decode 0b1000000100100011#16 = .ok (.xorReg 1 2) ∧
    decode 0b1000000100100100#16 = .ok (.addReg 1 2) ∧ decode 0b1000000100100101#16 = .ok (.subReg 1 2) ∧
    decode 0b1000000100100110#16 = .ok (.shr 1 2) ∧ decode 0b1000000100100111#16 = .ok (.subnReg 1 2) ∧
    decode 0b1000000100101110#16 = .ok (.shl 1 2) ∧ decode 0b1100000100001111#16 = .ok (.rnd 1 0x0F#8) := by decide

theorem test_decode_io :
    decode 0b1110001010011110#16 = .ok (.skp 2) ∧ decode 0b1110001010100001#16 = .ok (.sknp 2) ∧
    decode 0b1111010000000111#16 = .ok (.ldVxDT 4) ∧ decode 0b1111001100001010#16 = .ok (.ldVxK 3) ∧
    decode 0b1111001100010101#16 = .ok (.ldDTVx 3) ∧ decode 0b1111000000011000#16 = .ok (.ldSTVx 0) := by decide

theorem test_decode_index :
    decode 0b1010001011110000#16 = .ok (.ldI 0x2F0#12) ∧ decode 0b1111001000011110#16 = .ok (.addI 2) ∧
    decode 0b1111001000101001#16 = .ok (.ldF 2) ∧ decode 0b1111000000110011#16 = .ok (.ldB 0) ∧
    decode 0b1111001001010101#16 = .ok (.storeRegs 2) ∧ decode 0b1111001001100101#16 = .ok (.loadRegs 2) := by decide

theorem test_decode_display :
    decode 0b0000000011100000#16 = .ok .cls ∧ decode 0b1101000000011111#16 = .ok (.drw 0 1 15) := by decide

/-- Vectors X1 to X8: one unknown word of each group. -/
theorem test_decode_unknown :
    decode 0x01E0#16 = .error (.unknownGroup0 0x01E0#16) ∧ decode 0x5121#16 = .error (.unknownGroup5 0x5121#16) ∧
    decode 0x812F#16 = .error (.unknownGroup8 0x812F#16) ∧ decode 0x9AB1#16 = .error (.unknownGroup9 0x9AB1#16) ∧
    decode 0xE29F#16 = .error (.unknownGroupE 0xE29F#16) ∧ decode 0xF075#16 = .error (.unknownGroupF 0xF075#16) ∧
    decodeBytes [0x12#8] = .error .truncated := by decide

theorem test_decodeTableWord : decodeTableWord 16 0xD01F = some (.drw 0 1 15) ∧ decodeTableWord 16 0x5121 = none := by decide

/-! ### A small state, and one cycle from it -/

/-- The state after reset with a tick interval of 100 (the `T` of the vectors) and a word at 0x200. -/
def start (w : Word) : State :=
  State.storeBytes { State.reset with tickInterval := 100 } 0x200 [hiByte w, loByte w]

/-- Registers set to bytes. -/
def withV (rs : List (Reg × Byte)) (s : State) : State := rs.foldl (fun s r => s.writeV r.1 r.2) s

/-- Keys set as pressed. -/
def withKeys (ks : List (Fin 16)) (s : State) : State := ks.foldl (fun s k => (setKey k.val true s).2) s

/-- Cells of the display set. -/
def withCells (cs : List (Fin 32 × Fin 64)) (s : State) : State :=
  { s with fb := cs.foldl (fun d c => flipCell d c.1 c.2) s.fb }

/-- A one-byte or longer sprite at 0x300, with `I` there. -/
def withSprite (bs : List Byte) (s : State) : State := (s.setI 0x300#16).storeBytes 0x300 bs

/-- The outcome is a next state of which a check holds. -/
def ends (r : Result) (check : State → Bool) : Bool :=
  match r with
  | .next t => check t
  | .fault _ => false
  | .refused _ => false

/-- The outcome is this fault. -/
def faults (r : Result) (f : Fault) : Bool :=
  match r with
  | .next _ => false
  | .fault g => decide (g = f)
  | .refused _ => false

/-- The cells that are set, in row-major order. -/
def setCells (d : Display) : Nat := ((cellsOf d).filter id).length

/-! ### Control flow (vectors F1 to F24) -/

/-- F2. -/
theorem test_ret : ends (cycle 0 { start 0x00EE#16 with sp := 2, stk := (Vector.replicate 16 0x300#16).set 1 0x206#16 })
    (fun t => t.pc == 0x206#16 && t.sp == 1 && t.slot 0 == 0x300#16) = true := by decide
/-- F3. -/
theorem test_ret_underflow : faults (cycle 0 (start 0x00EE#16)) (.stackUnderflow 0x200#16 0x00EE#16) = true := by decide
/-- F4. -/
theorem test_halt : ends (cycle 100 { start 0x0000#16 with dt := 3#8 })
    (fun t => t.pc == 0x200#16 && t.dt == 2#8) = true := by decide
/-- F6: an odd target. -/
theorem test_jp : ends (cycle 0 (start 0x1201#16)) (fun t => t.pc == 0x201#16) = true := by decide
/-- F9. -/
theorem test_call : ends (cycle 0 { start 0x2ABC#16 with sp := 15 })
    (fun t => t.pc == 0xABC#16 && t.sp == 16 && t.slot 15 == 0x202#16) = true := by decide
/-- F10. -/
theorem test_call_overflow : faults (cycle 0 { start 0x2ABC#16 with sp := 16 }) (.stackOverflow 0x200#16 0x2ABC#16) = true := by
  decide
/-- F11. -/
theorem test_seImm_skips : ends (cycle 0 (withV [(3, 0x42#8)] (start 0x3342#16))) (fun t => t.pc == 0x204#16) = true := by decide
/-- F12. -/
theorem test_seImm_falls : ends (cycle 0 (withV [(3, 0x42#8)] (start 0x3343#16))) (fun t => t.pc == 0x202#16) = true := by decide
/-- F13. -/
theorem test_sneImm_falls : ends (cycle 0 (withV [(3, 0x42#8)] (start 0x4342#16))) (fun t => t.pc == 0x202#16) = true := by decide
/-- F14. -/
theorem test_sneImm_skips : ends (cycle 0 (withV [(3, 0x42#8)] (start 0x4343#16))) (fun t => t.pc == 0x204#16) = true := by decide
/-- F15. -/
theorem test_seReg_skips : ends (cycle 0 (withV [(1, 7#8), (2, 7#8)] (start 0x5120#16))) (fun t => t.pc == 0x204#16) = true := by
  decide
/-- F16. -/
theorem test_seReg_falls : ends (cycle 0 (withV [(1, 7#8), (2, 8#8)] (start 0x5120#16))) (fun t => t.pc == 0x202#16) = true := by
  decide
/-- F18. -/
theorem test_sneReg_falls : ends (cycle 0 (withV [(1, 7#8), (2, 7#8)] (start 0x9120#16))) (fun t => t.pc == 0x202#16) = true := by
  decide
/-- F19. -/
theorem test_sneReg_skips : ends (cycle 0 (withV [(1, 7#8), (2, 8#8)] (start 0x9120#16))) (fun t => t.pc == 0x204#16) = true := by
  decide
/-- F22: not masked to 12 bits. -/
theorem test_jpV0 : ends (cycle 0 (withV [(0, 0xFF#8)] (start 0xBFFF#16))) (fun t => t.pc == 0x10FE#16) = true := by decide
/-- F26. -/
theorem test_fetch_above : faults (cycle 0 ((start 0#16).setPc 0x10FE#16)) (.memoryOutOfBounds 0x10FE#16 none 0x10FE .fetch) = true := by
  decide
/-- F27: the second byte is the one out of range. -/
theorem test_fetch_last : faults (cycle 0 ((start 0#16).setPc 0xFFF#16)) (.memoryOutOfBounds 0xFFF#16 none 0x1000 .fetch) = true := by
  decide

/-! ### Arithmetic and logic (vectors A1 to A41) -/

/-- A1. -/
theorem test_ldImm : ends (cycle 0 (start 0x6A7F#16)) (fun t => t.readV 10 == 0x7F#8 && t.pc == 0x202#16) = true := by decide
/-- A4: no carry flag. -/
theorem test_addImm : ends (cycle 0 (withV [(1, 0xFF#8), (vf, 0x55#8)] (start 0x7102#16)))
    (fun t => t.readV 1 == 0x01#8 && t.readV vf == 0x55#8) = true := by decide
/-- A7. -/
theorem test_ldReg : ends (cycle 0 (withV [(1, 1#8), (2, 0x33#8)] (start 0x8120#16)))
    (fun t => t.readV 1 == 0x33#8 && t.readV 2 == 0x33#8) = true := by decide
/-- A8: VF is left alone. -/
theorem test_orReg : ends (cycle 0 (withV [(1, 0xF0#8), (2, 0x0F#8), (vf, 0x55#8)] (start 0x8121#16)))
    (fun t => t.readV 1 == 0xFF#8 && t.readV vf == 0x55#8) = true := by decide
/-- A9. -/
theorem test_andReg : ends (cycle 0 (withV [(1, 0xF0#8), (2, 0x3C#8)] (start 0x8122#16))) (fun t => t.readV 1 == 0x30#8) = true := by
  decide
/-- A10. -/
theorem test_xorReg : ends (cycle 0 (withV [(1, 0xF0#8), (2, 0x3C#8)] (start 0x8123#16))) (fun t => t.readV 1 == 0xCC#8) = true := by
  decide
/-- A14: 255 is no carry. -/
theorem test_addReg : ends (cycle 0 (withV [(1, 0x80#8), (2, 0x7F#8), (vf, 1#8)] (start 0x8124#16)))
    (fun t => t.readV 1 == 0xFF#8 && t.readV vf == 0#8) = true := by decide
/-- A17: VF is read first. -/
theorem test_addReg_vf_operand : ends (cycle 0 (withV [(1, 1#8), (vf, 0xFF#8)] (start 0x81F4#16)))
    (fun t => t.readV 1 == 0#8 && t.readV vf == 1#8) = true := by decide
/-- A20. -/
theorem test_subReg : ends (cycle 0 (withV [(1, 3#8), (2, 5#8), (vf, 1#8)] (start 0x8125#16)))
    (fun t => t.readV 1 == 0xFE#8 && t.readV vf == 0#8) = true := by decide
/-- A21: equal operands give 0. -/
theorem test_subReg_equal : ends (cycle 0 (withV [(1, 5#8), (2, 5#8), (vf, 1#8)] (start 0x8125#16)))
    (fun t => t.readV 1 == 0#8 && t.readV vf == 0#8) = true := by decide
/-- A24: Vy unused. -/
theorem test_shr : ends (cycle 0 (withV [(1, 5#8), (2, 0xFF#8)] (start 0x8126#16)))
    (fun t => t.readV 1 == 2#8 && t.readV 2 == 0xFF#8 && t.readV vf == 1#8) = true := by decide
/-- A28: the quirk. -/
theorem test_shr_vy : ends (cycle 0 (withV [(1, 0xFF#8), (2, 4#8)] { start 0x8126#16 with shiftUsesVy := true }))
    (fun t => t.readV 1 == 2#8 && t.readV 2 == 4#8 && t.readV vf == 0#8) = true := by decide
/-- A29. -/
theorem test_subnReg : ends (cycle 0 (withV [(1, 3#8), (2, 5#8)] (start 0x8127#16)))
    (fun t => t.readV 1 == 2#8 && t.readV vf == 1#8) = true := by decide
/-- A31. -/
theorem test_subnReg_equal : ends (cycle 0 (withV [(1, 5#8), (2, 5#8), (vf, 1#8)] (start 0x8127#16)))
    (fun t => t.readV 1 == 0#8 && t.readV vf == 0#8) = true := by decide
/-- A36: the flag over the shifted value. -/
theorem test_shl_vf : ends (cycle 0 (withV [(vf, 0x41#8)] (start 0x8F0E#16))) (fun t => t.readV vf == 0#8) = true := by decide
/-- A37: the quirk. -/
theorem test_shl_vy : ends (cycle 0 (withV [(1, 0xFF#8), (2, 0x41#8)] { start 0x812E#16 with shiftUsesVy := true }))
    (fun t => t.readV 1 == 0x82#8 && t.readV 2 == 0x41#8 && t.readV vf == 0#8) = true := by decide
/-- A38. -/
theorem test_rnd : ends (cycle 0 { start 0xC10F#16 with rndFeed := [0xA7#8] })
    (fun t => t.readV 1 == 0x07#8 && t.rndFeed == []) = true := by decide

/-! ### Keyboard and timers (vectors Q1 to Q19, T6, T9) -/

/-- Q5. -/
theorem test_skp : ends (cycle 0 (withV [(1, 0xF#8)] (withKeys [15] (start 0xE19E#16)))) (fun t => t.pc == 0x204#16) = true := by
  decide
/-- Q6. -/
theorem test_skp_fault : faults (cycle 0 (withV [(1, 0x10#8)] (start 0xE19E#16)))
    (.keyIndexOutOfBounds 0x200#16 0xE19E#16 0x10#8) = true := by decide
/-- Q3. -/
theorem test_sknp : ends (cycle 0 (withV [(1, 5#8)] (withKeys [5] (start 0xE1A1#16)))) (fun t => t.pc == 0x202#16) = true := by
  decide
/-- Q7. -/
theorem test_sknp_fault : faults (cycle 0 (withV [(1, 0xFF#8)] (start 0xE1A1#16)))
    (.keyIndexOutOfBounds 0x200#16 0xE1A1#16 0xFF#8) = true := by decide
/-- Q8. -/
theorem test_ldVxK_waits : ends (cycle 0 (withV [(3, 0x55#8)] (start 0xF30A#16)))
    (fun t => t.pc == 0x200#16 && t.readV 3 == 0x55#8) = true := by decide
/-- Q9. -/
theorem test_ldVxK : ends (cycle 0 (withKeys [9, 7] (start 0xF30A#16))) (fun t => t.pc == 0x202#16 && t.readV 3 == 7#8) = true := by
  decide
/-- Q14: read before the tick. -/
theorem test_ldVxDT : ends (cycle 100 { start 0xF407#16 with dt := 0x3C#8 })
    (fun t => t.readV 4 == 0x3C#8 && t.dt == 0x3B#8) = true := by decide
/-- Q16: written, then ticked. -/
theorem test_ldDTVx : ends (cycle 100 (withV [(3, 7#8)] (start 0xF315#16))) (fun t => t.dt == 6#8) = true := by decide
/-- Q19. -/
theorem test_ldSTVx : ends (cycle 300 (withV [(0, 1#8)] (start 0xF018#16))) (fun t => t.st == 0#8) = true := by decide
/-- T6. -/
theorem test_ticks : ends (cycle 301 { start 0x1200#16 with dt := 5#8, st := 2#8 })
    (fun t => t.dt == 2#8 && t.st == 0#8 && t.tacc == 1) = true := by decide
/-- T9: a faulting cycle absorbs no time. -/
theorem test_fault_keeps_time : (perform (.cycle 100) { start 0x00EE#16 with dt := 5#8, tacc := 7 }).2 =
    { start 0x00EE#16 with dt := 5#8, tacc := 7 } := rfl

/-! ### Index register and memory (vectors M1 to M28) -/

/-- M1. -/
theorem test_ldI : ends (cycle 0 (start 0xAFFF#16)) (fun t => t.i == 0x0FFF#16) = true := by decide
/-- M3: no flag, no 12-bit mask. -/
theorem test_addI : ends (cycle 0 (withV [(1, 1#8), (vf, 0x55#8)] ((start 0xF11E#16).setI 0x0FFF#16)))
    (fun t => t.i == 0x1000#16 && t.readV vf == 0x55#8) = true := by decide
/-- M5. -/
theorem test_addI_wraps : ends (cycle 0 (withV [(1, 0xFF#8)] ((start 0xF11E#16).setI 0xFF80#16))) (fun t => t.i == 0x7F#16) = true := by
  decide
/-- M8. -/
theorem test_ldF : ends (cycle 0 (withV [(1, 0xFF#8)] (start 0xF129#16))) (fun t => t.i == 0x04FB#16) = true := by decide
/-- M15. -/
theorem test_ldB : ends (cycle 0 (withV [(1, 123#8)] ((start 0xF133#16).setI 0xFFD#16)))
    (fun t => t.bytesFrom 0xFFD 3 == [1#8, 2#8, 3#8] && t.i == 0xFFD#16) = true := by decide
/-- M16. -/
theorem test_ldB_fault : faults (cycle 0 (withV [(1, 123#8)] ((start 0xF133#16).setI 0xFFE#16)))
    (.memoryOutOfBounds 0x200#16 (some 0xF133#16) 0x1000 .write) = true := by decide
/-- M19. -/
theorem test_storeRegs : ends (cycle 0 (withV [(0, 1#8), (1, 2#8), (2, 3#8), (3, 4#8)] ((start 0xF255#16).setI 0x300#16)))
    (fun t => t.bytesFrom 0x300 4 == [1#8, 2#8, 3#8, 0#8] && t.i == 0x300#16) = true := by decide
/-- M23. -/
theorem test_storeRegs_fault : faults (cycle 0 (withV [(0, 0xEE#8)] ((start 0xF055#16).setI 0x1000#16)))
    (.memoryOutOfBounds 0x200#16 (some 0xF055#16) 0x1000 .write) = true := by decide
/-- M26: the font. -/
theorem test_loadRegs : ends (cycle 0 (start 0xFF65#16))
    (fun t => t.firstRegs 15 == [0xF0#8, 0x90#8, 0x90#8, 0x90#8, 0xF0#8, 0x20#8, 0x60#8, 0x20#8, 0x20#8, 0x70#8,
      0xF0#8, 0x10#8, 0xF0#8, 0x80#8, 0xF0#8, 0xF0#8]) = true := by decide
/-- M28. -/
theorem test_loadRegs_fault : faults (cycle 0 ((start 0xF165#16).setI 0xFFF#16))
    (.memoryOutOfBounds 0x200#16 (some 0xF165#16) 0x1000 .read) = true := by decide

/-! ### Display (vectors G1 to G19) -/

/-- G1. -/
theorem test_cls : ends (cycle 0 (withCells [(0, 0), (31, 63)] (start 0x00E0#16)))
    (fun t => setCells t.fb == 0 && t.rdrw) = true := by decide +kernel
/-- G6: both coordinates wrap. -/
theorem test_drw_wraps : ends (cycle 0 (withV [(0, 62#8), (1, 31#8)] (withSprite [0xF0#8] (start 0xD011#16))))
    (fun t => setCells t.fb == 4 && cellAt t.fb 31 62 && cellAt t.fb 31 63 && cellAt t.fb 31 0 && cellAt t.fb 31 1 &&
      t.readV vf == 0#8 && t.rdrw) = true := by decide +kernel
/-- G10: a collision. -/
theorem test_drw_collides : ends (cycle 0 (withCells [(0, 1)] (withSprite [0xC0#8] (start 0xD011#16))))
    (fun t => setCells t.fb == 1 && cellAt t.fb 0 0 && t.readV vf == 1#8) = true := by decide +kernel
/-- G16: nothing is written. -/
theorem test_drw_fault : faults (cycle 0 ((start 0xD013#16).setI 0xFFE#16))
    (.memoryOutOfBounds 0x200#16 (some 0xD013#16) 0x1000 .read) = true := by decide

/-! ### Unknown opcodes, the host's operations, the step -/

/-- X9. -/
theorem test_unknown : (perform (.cycle 100) { start 0x5121#16 with dt := 2#8 }).1 = .okDiag 0x5121#16 ∧
    (perform (.cycle 100) { start 0x5121#16 with dt := 2#8 }).2.pc = 0x202#16 ∧
    (perform (.cycle 100) { start 0x5121#16 with dt := 2#8 }).2.dt = 1#8 := by decide
/-- H2: below the program window the power-on contents come back; the window is kept. -/
theorem test_reset : ((perform .reset ((start 0x1234#16).storeBytes 0x0 [1#8, 2#8])).2.bytesFrom 0 2 = [0xF0#8, 0x90#8]) ∧
    ((perform .reset ((start 0x1234#16).storeBytes 0x100 [0x99#8])).2.bytesFrom 0x100 1 = [0#8]) ∧
    ((perform .reset (start 0x1234#16)).2.bytesFrom 0x200 2 = [0x12#8, 0x34#8]) := by decide
/-- H3. -/
theorem test_powerOn : (perform .powerOn ((start 0x1234#16).setPc 0x300#16)).2.bytesFrom 0x200 2 = [0#8, 0#8] ∧
    (perform .powerOn ((start 0x1234#16).setPc 0x300#16)).2.pc = 0x200#16 := by decide
/-- R45: another value of the parameter `FONT`, at its last two bytes and the byte after, after `power_on` and after `reset()`. -/
theorem test_font_parameter : let s := { start 0x1234#16 with font := Vector.replicate 80 0xA5#8 }
    (perform .powerOn (s.storeBytes 78 [1#8])).2.bytesFrom 78 3 = [0xA5#8, 0xA5#8, 0#8] ∧
    (perform .reset (s.storeBytes 78 [1#8])).2.bytesFrom 78 3 = [0xA5#8, 0xA5#8, 0#8] := by decide
/-- R45: the sprite of another font is the one drawn (digit F, row 0, at the origin). -/
theorem test_font_drawn : ends (cycle 0 (State.setI { start 0xD001#16 with font := Vector.replicate 80 0x80#8 } 75#16))
    (fun t => setCells t.fb == 1 && cellAt t.fb 0 0) = true := by decide +kernel
/-- H6. -/
theorem test_loadProgram : (perform (.loadProgram [0x12#8]) (start 0x0034#16)).2.bytesFrom 0x200 2 = [0x12#8, 0x34#8] := by decide
/-- H7, H8. -/
theorem test_setKey : (perform (.setKey 0xA true) (start 0#16)).2.keyDown 10 = true ∧
    (perform (.setKey 0x10 true) (start 0#16)).1 = .badKeyCode := by decide
/-- H9. -/
theorem test_redraw : (session [.redrawPending, .ackRedraw, .redrawPending] { start 0#16 with rdrw := true }).1 =
    [.redraw true, .done, .redraw false] := by decide
/-- R19: the cell of row 1, column 2 is the one at index 66. -/
theorem test_framebuffer : (cellsOf (withCells [(1, 2)] (start 0#16)).fb)[66]? = some true := by decide +kernel
/-- `withFetchWord` makes the very next step run that instruction, from the state after reset. -/
theorem test_withFetchWord : ends (step (State.reset.withFetchWord 16 0x6A7F)) (fun t => t.readV 10 == 0x7F#8) = true := by decide
/-- S6: a call and its return, as two steps of the machine. -/
theorem test_steps : ends (core.run 2
      { (start 0x2300#16).storeBytes 0x300 [0x00#8, 0xEE#8] with pending := [.cycle 0, .cycle 0] })
    (fun t => t.pc == 0x202#16 && t.sp == 0) = true := by decide

/-! ### Witnesses: the hypotheses of the statements are met together, each clause at a boundary -/

theorem witness_DecodeOfEncode : (Instr.drw 15 0 15).wellFormed = true := rfl

theorem witness_EncodeOfDecode : decode 0xDF0F#16 = .ok (.drw 15 0 15) := by decide

theorem witness_DecoderFollowsOpcodeTable :
    (Instr.storeRegs 0 ∈ opcodeTable ∧ matchesRow (.storeRegs 0) 0xFF55#16 = true) ∧ decode 0xFF55#16 = .ok (.storeRegs 15) := by
  decide

theorem witness_UnknownOpcodeIsNoOp : fetch (start 0x5121#16) = .ok 0x5121#16 ∧
    (∀ a ∈ opcodeTable, matchesRow a 0x5121#16 = false) := by decide

/-- PC at the last address that can be fetched. -/
def atLast : State := ((start 0#16).setPc 0xFFE#16).storeBytes 0xFFE [0x12#8, 0x00#8]

theorem witness_StepRunsDecodedInstruction_free : atLast.pc.toNat + 1 ≤ 0xFFF ∧ (Instr.jp 0x200#12).wellFormed = true ∧
    decodeBytes (atLast.bytesFrom atLast.pc.toNat 2) = .ok (.jp 0x200#12, []) ∧ atLast.pending = [] := by decide

theorem witness_StepRunsDecodedInstruction_listed :
    decodeBytes (State.bytesFrom { atLast with pending := [.cycle 7, .reset] } 0xFFE 2) = .ok (.jp 0x200#12, []) ∧
    State.pending { atLast with pending := [.cycle 7, .reset] } = [.cycle 7, .reset] := by decide

theorem witness_StepPerformsPendingOperation :
    State.pending { start 0#16 with pending := [.powerOn, .cycle 0] } = [.powerOn, .cycle 0] ∧
    (∀ e, HostOp.powerOn ≠ .cycle e) := ⟨rfl, fun _ h => nomatch h⟩

theorem witness_FetchReadsBigEndianWord : atLast.pc.toNat ≤ 0xFFE ∧ ((start 0#16).setPc 0xFFF#16).pc.toNat = 0xFFF ∧
    0xFFF < ((start 0#16).setPc 0x1000#16).pc.toNat := by decide

/-- The last address and the first outside; a block that ends at the last byte, one that passes it, one that starts outside, and an
empty one. -/
theorem witness_MemoryAccessIsBounded : (start 0x1234#16).memWf = true ∧ 0xFFF ≤ 0xFFF ∧ 0xFFF < 0x1000 ∧
    blockFault 0xFFE [1#8, 2#8].length = none ∧ blockFault 0xFFF 2 = some 0x1000 ∧ blockFault 0x2000 3 = some 0x2000 ∧
    blockFault 0x2000 0 = none := by decide

theorem witness_CycleFaultsExactlyAsTabled :
    cycle 0 (start 0x00EE#16) = .fault (.stackUnderflow 0x200#16 0x00EE#16) ∧
    faultOf (start 0x00EE#16) = some (.stackUnderflow 0x200#16 0x00EE#16) := ⟨rfl, by decide⟩

theorem witness_FaultLeavesNoTrace_instruction : perform (.cycle 5) (start 0x00EE#16) =
    (.fault (.stackUnderflow 0x200#16 0x00EE#16), start 0x00EE#16) ∧ fetch (start 0x00EE#16) = .ok 0x00EE#16 := ⟨rfl, by decide⟩

theorem witness_FaultLeavesNoTrace_fetch : perform (.cycle 5) ((start 0#16).setPc 0xFFF#16) =
    (.fault (.memoryOutOfBounds 0xFFF#16 none 0x1000 .fetch), (start 0#16).setPc 0xFFF#16) ∧
    (∀ w, fetch ((start 0#16).setPc 0xFFF#16) ≠ .ok w) := ⟨rfl, fun _ h => nomatch h⟩

theorem witness_FaultComesAgain : cycle 0 (start 0x00EE#16) = .fault (.stackUnderflow 0x200#16 0x00EE#16) := rfl

theorem witness_CycleLeavesPcAsTabled_instruction : (∃ t, cycle 3 atLast = .next t) ∧
    decode (wordAtPc atLast) = .ok (.jp 0x200#12) := ⟨⟨_, rfl⟩, by decide⟩

theorem witness_CycleLeavesPcAsTabled_unknown : (∃ t, cycle 3 (start 0x5121#16) = .next t) ∧
    decode (wordAtPc (start 0x5121#16)) = .error (.unknownGroup5 0x5121#16) := ⟨⟨_, rfl⟩, by decide⟩

theorem witness_CycleLeavesPcAsTabled_fault : perform (.cycle 3) (start 0x00EE#16) =
    (.fault (.stackUnderflow 0x200#16 0x00EE#16), start 0x00EE#16) := rfl

theorem witness_TimerStepFollowsInstruction_other : (∃ t, cycle 250 (start 0x1200#16) = .next t) ∧
    (∀ x, decode (wordAtPc (start 0x1200#16)) ≠ .ok (.ldDTVx x)) ∧
    (∀ x, decode (wordAtPc (start 0x1200#16)) ≠ .ok (.ldSTVx x)) := ⟨⟨_, rfl⟩, by decide, by decide⟩

theorem witness_TimerStepFollowsInstruction_dt : (∃ t, cycle 250 (start 0xF315#16) = .next t) ∧
    decode (wordAtPc (start 0xF315#16)) = .ok (.ldDTVx 3) := ⟨⟨_, rfl⟩, by decide⟩

theorem witness_TimerStepFollowsInstruction_st : (∃ t, cycle 250 (start 0xF018#16) = .next t) ∧
    decode (wordAtPc (start 0xF018#16)) = .ok (.ldSTVx 0) := ⟨⟨_, rfl⟩, by decide⟩

theorem witness_TimerStepFollowsInstruction_read : (∃ t, cycle 250 (start 0xF407#16) = .next t) ∧
    decode (wordAtPc (start 0xF407#16)) = .ok (.ldVxDT 4) := ⟨⟨_, rfl⟩, by decide⟩

/-- The stack empty, with one entry, with all sixteen. -/
theorem witness_ReturnPopsPc : State.reset.sp.val = 0 ∧ State.sp { State.reset with sp := 1 } = (0 : Fin 16).val + 1 ∧
    State.sp { State.reset with sp := 16 } = (15 : Fin 16).val + 1 := by decide

theorem witness_ReturnPopsPc_cycle : fetch (start 0x00EE#16) = .ok 0x00EE#16 ∧ (start 0x00EE#16).sp.val = 0 := by decide

theorem witness_HaltReexecutesItself : fetch (start 0x0000#16) = .ok 0x0000#16 := by decide

/-- A halted machine at the last address that can be fetched, with two cycles listed, and with none. -/
theorem witness_HaltedMachineStaysHalted :
    (∀ op ∈ State.pending { (start 0#16).setPc 0xFFE#16 with pending := [.cycle 250, .cycle 0] }, ∃ e, op = .cycle e) ∧
    (∀ op ∈ ((start 0#16).setPc 0xFFE#16).pending, ∃ e, op = .cycle e) ∧
    ((start 0#16).setPc 0xFFE#16).pc.toNat ≤ 0xFFE ∧ wordAtPc ((start 0#16).setPc 0xFFE#16) = 0x0000#16 := by
  refine ⟨fun op h => ?_, (List.forall_mem_nil _), by decide, by decide⟩
  rcases List.mem_cons.mp h with rfl | h
  · exact ⟨250, rfl⟩
  · exact ⟨0, List.mem_singleton.mp h⟩

/-- The stack full, empty, and with fifteen entries. -/
theorem witness_CallPushesAdvancedPc : (State.sp { State.reset with sp := 16 }).val = 16 ∧ State.reset.sp.val = (0 : Fin 16).val ∧
    (State.sp { State.reset with sp := 15 }).val = (15 : Fin 16).val := by decide

theorem witness_CallPushesAdvancedPc_cycle : fetch { start 0x2ABC#16 with sp := 16 } = .ok (wordNNN 0x2#4 0xABC#12) ∧
    (State.sp { start 0x2ABC#16 with sp := 16 }).val = 16 := by decide

/-- A call at 0x200 to a return at the last address that can be fetched, with fifteen entries on the stack. -/
def callAtLast : State := { (start 0x2FFE#16).storeBytes 0xFFE [0x00#8, 0xEE#8] with sp := 15 }

theorem witness_CallThenReturnComesBack : callAtLast.pc.toNat ≤ 0xFFE ∧ decode (wordAtPc callAtLast) = .ok (.call 0xFFE#12) ∧
    callAtLast.sp.val = (15 : Fin 16).val ∧ (0xFFE#12 : Addr12).toNat ≤ 0xFFE ∧
    callAtLast.byteAt (0xFFE#12 : Addr12).toNat = 0x00#8 ∧ callAtLast.byteAt ((0xFFE#12 : Addr12).toNat + 1) = 0xEE#8 := by decide

/-- For `AddSetsCarry`, `SubtractSetsStrictGreater` and `ShiftsSetBitShiftedOut`: a destination other than VF. -/
theorem witness_destination_not_vf : (14 : Reg) ≠ vf := by decide

theorem witness_ShiftsSetBitShiftedOut_vx :
    (5#8 : Byte) = (if (withV [(1, 5#8), (2, 4#8)] (start 0x8126#16)).shiftUsesVy = true then 4#8 else 5#8) := by decide

theorem witness_ShiftsSetBitShiftedOut_vy :
    (withV [(1, 5#8), (2, 4#8)] { start 0x8126#16 with shiftUsesVy := true }).readV 2 =
      (if (withV [(1, 5#8), (2, 4#8)] { start 0x8126#16 with shiftUsesVy := true }).shiftUsesVy = true
        then (withV [(1, 5#8), (2, 4#8)] { start 0x8126#16 with shiftUsesVy := true }).readV 2
        else (withV [(1, 5#8), (2, 4#8)] { start 0x8126#16 with shiftUsesVy := true }).readV 1) := by decide

theorem witness_RandomIsMasked : State.rndFeed { State.reset with rndFeed := [0xA7#8] } = [0xA7#8] ∧ State.reset.rndFeed = [] := by
  decide

/-- The last key code, and the first byte that is none. -/
theorem witness_KeySkips : ((withV [(2, 0xF#8)] State.reset).readV 2).toNat = (15 : Fin 16).val ∧
    0xF < ((withV [(2, 0x10#8)] State.reset).readV 2).toNat := by decide

theorem witness_KeyWaitTakesLeastKey_pressed : (withKeys [15] State.reset).keyDown 15 = true ∧
    (∀ j : Fin 16, j < 15 → (withKeys [15] State.reset).keyDown j = false) := by decide

theorem witness_KeyWaitTakesLeastKey_waits : (∀ k : Fin 16, (start 0xF30A#16).keyDown k = false) ∧
    fetch (start 0xF30A#16) = .ok (wordXNN 0xF#4 3 0x0A#8) := by decide

/-- Two whole intervals in 250 units of time, and a cycle of each timer instruction. -/
theorem witness_TimerMoves : 2 = ((start 0xF307#16).tacc + 250) / (start 0xF307#16).tickInterval ∧
    fetch (start 0xF307#16) = .ok (wordXNN 0xF#4 3 0x07#8) ∧ fetch (start 0xF315#16) = .ok (wordXNN 0xF#4 3 0x15#8) ∧
    fetch (start 0xF318#16) = .ok (wordXNN 0xF#4 3 0x18#8) := by decide

/-- The last `I` at which three bytes fit, and the next. -/
theorem witness_BcdStoresThreeDigits : (State.reset.setI 0xFFD#16).memWf = true ∧ (State.reset.setI 0xFFD#16).i.toNat + 2 ≤ 0xFFF ∧
    0xFFF < (State.reset.setI 0xFFE#16).i.toNat + 2 := by decide

/-- For `StoreBlockWritesRegisters` and `LoadBlockReadsMemory`: the last `I` at which sixteen bytes fit, and the next. -/
theorem witness_blocks : (State.reset.setI 0xFF0#16).memWf = true ∧ (State.reset.setI 0xFF0#16).i.toNat + (15 : Reg).val ≤ 0xFFF ∧
    0xFFF < (State.reset.setI 0xFF1#16).i.toNat + (15 : Reg).val := by decide

theorem witness_StoreThenLoadRestoresRegisters : (State.reset.setI 0xFFF#16).memWf = true ∧
    ∃ t, exec (.storeRegs 0) (State.reset.setI 0xFFF#16) = .next t := ⟨rfl, _, rfl⟩

/-- Vector M24: two bytes stored over the next instruction. -/
theorem witness_StoreIsSeenByNextFetch : ((start 0xF155#16).setI 0x202#16).memWf = true ∧
    ends (cycle 0 ((start 0xF155#16).setI 0x202#16)) (fun t => decide (t.pc.toNat ≤ 0xFFE)) = true ∧
    decode (wordAtPc ((start 0xF155#16).setI 0x202#16)) = .ok (.storeRegs 1) ∧
    storedByte (.storeRegs 1) ((start 0xF155#16).setI 0x202#16) 0x203 = some 0#8 := by decide

/-- Only the first byte of the next instruction (`x = 0`), only its second, and its first from one below. -/
theorem witness_StoreIsSeenByNextFetch_edges :
    ends (cycle 0 (withV [(0, 0xA1#8)] ((start 0xF055#16).setI 0x202#16))) (fun t => decide (fetch t = .ok 0xA100#16)) = true ∧
    ends (cycle 0 (withV [(0, 0xA1#8)] ((start 0xF055#16).setI 0x203#16))) (fun t => decide (fetch t = .ok 0x00A1#16)) = true ∧
    ends (cycle 0 (withV [(1, 0xA1#8)] ((start 0xF155#16).setI 0x201#16))) (fun t => decide (fetch t = .ok 0xA100#16)) = true := by
  decide

/-- `LD B` over the next instruction, and from two below it. -/
theorem witness_StoreIsSeenByNextFetch_digits :
    ends (cycle 0 (withV [(2, 123#8)] ((start 0xF233#16).setI 0x202#16))) (fun t => decide (fetch t = .ok 0x0102#16)) = true ∧
    ends (cycle 0 (withV [(2, 123#8)] ((start 0xF233#16).setI 0x200#16))) (fun t => decide (fetch t = .ok 0x0300#16)) = true ∧
    storedByte (.ldB 2) (withV [(2, 123#8)] ((start 0xF233#16).setI 0x200#16)) 0x202 = some 3#8 := by decide

/-- No rows with `I` out of range; the last row at the last byte; one row too many. -/
theorem witness_DrawXorsSprite_bounds : (0 : Fin 16).val = 0 ∧ (State.reset.setI 0xFF1#16).i.toNat + (15 : Fin 16).val ≤ 0x1000 ∧
    ((15 : Fin 16).val ≠ 0 ∧ 0x1000 < (State.reset.setI 0xFF2#16).i.toNat + (15 : Fin 16).val) := by decide

/-- A sprite bit over the set cell (0,1), at row 0 and column 1 of a draw at (0,0): a collision. -/
theorem witness_DrawXorsSprite_collision :
    (0 : Fin 32).val = ((withCells [(0, 1)] (withSprite [0xC0#8] State.reset)).readV 1).toNat % 32 ∧
    (1 : Fin 64).val = (((withCells [(0, 1)] (withSprite [0xC0#8] State.reset)).readV 0).toNat + 1) % 64 ∧
    ((withCells [(0, 1)] (withSprite [0xC0#8] State.reset)).byteAt
      ((withCells [(0, 1)] (withSprite [0xC0#8] State.reset)).indexed 0)).getLsbD (7 - 1) = true ∧
    cellAt (withCells [(0, 1)] (withSprite [0xC0#8] State.reset)).fb 0 1 = true := by decide

/-- A blank display: no collision, whatever the sprite. -/
theorem witness_DrawXorsSprite_no_collision : ∀ (r : Fin 32) (c : Fin 64), cellAt State.reset.fb r c = false := cellAt_blank

theorem witness_DrawingTwiceRestoresDisplay : (0 : Reg) ≠ vf ∧ (1 : Reg) ≠ vf ∧
    (∃ t, exec (.drw 0 1 (1 : Fin 16).val) (withSprite [0xF0#8] State.reset) = .next t) ∧
    ((withSprite [0xF0#8] State.reset).byteAt 0x300).getLsbD 7 = true ∧
    cellAt (withSprite [0xF0#8] State.reset).fb 0 0 = false := ⟨by decide, by decide, ⟨_, rfl⟩, by decide, by decide⟩

/-- For `ResetStateAsListed` and `PowerOnSetsEverything`: the last byte of the font, and the first after it. -/
theorem witness_font_bounds : 79 < 80 ∧ 80 ≤ 80 ∧ State.reset.byteAt 79 = 0x80#8 ∧ State.reset.byteAt 80 = 0#8 := by decide

/-- For the parts that `power_on` sets and those it leaves. -/
theorem witness_PowerOnSetsEverything : ((∀ a, StatePart.tacc ≠ .mem a) ∧ StatePart.tacc ≠ .font) ∧
    StatePart.font = .font := ⟨⟨by simp, by decide⟩, rfl⟩

theorem witness_ResetKeepsProgramWindow : ((start 0x1234#16).storeBytes 0x1FF [0x55#8]).memWf = true ∧ 0x200 ≤ 0x200 := by decide

/-- The largest program, the first that is too large, and the empty one. -/
theorem witness_LoadProgramWritesWindow : State.reset.memWf = true ∧ (List.replicate 0xE00 0x12#8).length ≤ 0xE00 ∧
    0xE00 < (List.replicate 0xE01 0x12#8).length ∧ ([] : List Byte).length ≤ 0xE00 := by
  refine ⟨rfl, ?_, ?_, ?_⟩
  · rw [List.length_replicate]
  · rw [List.length_replicate]; omega
  · exact Nat.zero_le _

theorem witness_KeyAndRedrawOperations : (15 : Fin 16).val ≤ 0xF ∧ 0xF < 0x10 := by decide

theorem witness_InstructionsWriteOnlyTheirParts : (start 0#16).memWf = true ∧
    ∃ t, exec (.storeRegs 15) (withV [(15, 9#8)] (start 0#16)) = .next t := ⟨by decide, _, rfl⟩

theorem witness_OnlyHostWritesKeysAndClearsRedraw_sets : (∃ t, cycle 0 (start 0x00E0#16) = .next t ∧ t.rdrw = true) ∧
    (start 0x00E0#16).rdrw = false := ⟨⟨_, rfl, rfl⟩, rfl⟩

theorem witness_OnlyHostWritesKeysAndClearsRedraw_keeps : (∃ t, cycle 0 { start 0x1200#16 with rdrw := true } = .next t) ∧
    State.rdrw { start 0x1200#16 with rdrw := true } = true := ⟨⟨_, rfl⟩, rfl⟩

theorem witness_OnlyKeyInstructionsReadKeys : (∀ x, Instr.ret ≠ .skp x) ∧ (∀ x, Instr.ret ≠ .sknp x) ∧ (∀ x, Instr.ret ≠ .ldVxK x) ∧
    (∃ t, exec .ret { State.reset with sp := 1 } = .next t) ∧ (∃ f, exec .ret State.reset = .fault f) :=
  ⟨by decide, by decide, by decide, ⟨_, rfl⟩, ⟨_, rfl⟩⟩

theorem witness_NoInstructionReadsTaccOrSt : (∃ t, exec (.ldVxDT 4) { State.reset with dt := 9#8 } = .next t) ∧
    (∃ f, exec .ret State.reset = .fault f) := ⟨⟨_, rfl⟩, ⟨_, rfl⟩⟩

/-- Before a call: fifteen return addresses at their largest, the accumulated time at its largest, an operation pending. -/
def beforeCall : State :=
  { start 0x2FFF#16 with sp := 15, stk := Vector.replicate 16 0x1000#16, tacc := 99, pending := [.cycle 1] }

theorem witness_StepKeepsInvariant : beforeCall.Inv ∧ ∃ t, Sys2Proof.Machine.step beforeCall = .next t :=
  ⟨⟨by decide, by decide, by decide, by decide, by decide⟩, _, rfl⟩

/-- The last byte of the font. -/
theorem witness_FontIsInstalled : (HostOp.reset = .powerOn ∨ HostOp.reset = .reset) ∧ (15 : Fin 16).val * 5 + (4 : Fin 5).val = 79 := by
  decide

theorem witness_StepKeepsParameters :
    ∃ t, Sys2Proof.Machine.step { beforeCall with font := Vector.replicate 80 0xA5#8, shiftUsesVy := true } = .next t := ⟨_, rfl⟩

/-- A halted machine runs safely. -/
theorem witness_SafeRun : SafeRun 3 { start 0#16 with pending := [.cycle 0, .cycle 250, .cycle 0] } := ⟨_, rfl⟩

end Sys2Proof.Tests
end

section
/-! PROOFS. Memory (spec/20_memory.md): the fetch of the instruction word (R43). -/

namespace Sys2Proof.Machine

/-! ### The word of two bytes, and a read of one byte -/

/-- The first byte is the more significant (R43, R66). -/
@[simp] theorem toNat_wordOfBytes (hi lo : Byte) : (wordOfBytes hi lo).toNat = hi.toNat * 256 + lo.toNat := by
  rw [wordOfBytes, BitVec.toNat_append, ← Nat.shiftLeft_add_eq_or_of_lt lo.isLt, Nat.shiftLeft_eq]

theorem memRead_of_le {s : State} {a : Nat} (h : a ≤ 0xFFF) : s.memRead a = .ok (s.byteAt a) :=
  if_pos h

theorem memRead_of_lt {s : State} {a : Nat} (h : 0xFFF < a) : s.memRead a = .error a :=
  if_neg (Nat.not_le.mpr h)

/-! ### The fetch out of memory -/

/-- At the last address the first byte is read and the second is the one out of range. -/
theorem fetch_last {s : State} (h : s.pc.toNat = 0xFFF) :
    fetch s = .error (.memoryOutOfBounds s.pc none (s.pc.toNat + 1) .fetch) := by
  have hfirst : s.memRead s.pc.toNat = .ok (s.byteAt s.pc.toNat) := memRead_of_le h.le
  have hsecond : s.memRead (s.pc.toNat + 1) = .error (s.pc.toNat + 1) := memRead_of_lt (by omega)
  simp only [fetch, hfirst, hsecond]

/-- Above the last address the first byte is already out of range. -/
theorem fetch_above {s : State} (h : 0xFFF < s.pc.toNat) :
    fetch s = .error (.memoryOutOfBounds s.pc none s.pc.toNat .fetch) := by
  have hfirst : s.memRead s.pc.toNat = .error s.pc.toNat := memRead_of_lt h
  simp only [fetch, hfirst]

/-- Settles O8: inside memory the word of the two bytes at PC, and past 0xFFE the fault of the first byte out of range. -/
theorem fetchReadsBigEndianWord : Obligations.FetchReadsBigEndianWord := by
  intro s
  refine ⟨fun hin => ?_, fetch_last, fetch_above⟩
  exact ⟨_, fetch_in (by omega), toNat_wordOfBytes _ _⟩

end Sys2Proof.Machine
end

section
/-! PROOFS. Control flow (spec/40_control_flow.md): halt, the jumps and the skips (R101, R102, R104 to R109). -/

namespace Sys2Proof.Machine

/-! ### The fields of the patterns of R61, and what the patterns of control flow decode to (R68) -/

theorem fields_of_wordNNN {g : Nat} (hg : g < 16) (nnn : Addr12) :
    (groupOf (wordNNN (BitVec.ofNat 4 g) nnn)).toNat = g ∧ nnnOf (wordNNN (BitVec.ofNat 4 g) nnn) = nnn :=
  fields_of_nnn (by rw [wordNNN_eq_pack hg, packNNN_toNat hg nnn.isLt])

theorem fields_of_wordXNN {g : Nat} (hg : g < 16) (x : Reg) (nn : Byte) :
    (groupOf (wordXNN (BitVec.ofNat 4 g) x nn)).toNat = g ∧ xOf (wordXNN (BitVec.ofNat 4 g) x nn) = x ∧
      nnOf (wordXNN (BitVec.ofNat 4 g) x nn) = nn :=
  fields_of_xnn (by rw [wordXNN_eq_pack hg, packXNN_toNat hg x.isLt nn.isLt])

theorem fields_of_wordXYN {g : Nat} (hg : g < 16) (x y : Reg) (n : BitVec 4) :
    (groupOf (wordXYN (BitVec.ofNat 4 g) x y n)).toNat = g ∧ xOf (wordXYN (BitVec.ofNat 4 g) x y n) = x ∧
      yOf (wordXYN (BitVec.ofNat 4 g) x y n) = y ∧ nOf (wordXYN (BitVec.ofNat 4 g) x y n) = n.toNat :=
  fields_of_xyn n.isLt (by rw [wordXYN_eq_pack hg, packXYN_toNat hg x.isLt y.isLt n.isLt])

theorem decode_jp (nnn : Addr12) : decode (wordNNN 0x1#4 nnn) = .ok (.jp nnn) := by
  obtain ⟨hgroup, hnnn⟩ := fields_of_wordNNN (g := 0x1) (by decide) nnn
  simp only [decode, hgroup, hnnn]

theorem decode_jpV0 (nnn : Addr12) : decode (wordNNN 0xB#4 nnn) = .ok (.jpV0 nnn) := by
  obtain ⟨hgroup, hnnn⟩ := fields_of_wordNNN (g := 0xB) (by decide) nnn
  simp only [decode, hgroup, hnnn]

theorem decode_seImm (x : Reg) (nn : Byte) : decode (wordXNN 0x3#4 x nn) = .ok (.seImm x nn) := by
  obtain ⟨hgroup, hx, hnn⟩ := fields_of_wordXNN (g := 0x3) (by decide) x nn
  simp only [decode, hgroup, hx, hnn]

theorem decode_sneImm (x : Reg) (nn : Byte) : decode (wordXNN 0x4#4 x nn) = .ok (.sneImm x nn) := by
  obtain ⟨hgroup, hx, hnn⟩ := fields_of_wordXNN (g := 0x4) (by decide) x nn
  simp only [decode, hgroup, hx, hnn]

/-- Group 5 decodes only with the low nibble 0 (R66). -/
theorem decode_seReg (x y : Reg) : decode (wordXYN 0x5#4 x y 0x0#4) = .ok (.seReg x y) := by
  obtain ⟨hgroup, hx, hy, hn⟩ := fields_of_wordXYN (g := 0x5) (by decide) x y 0x0#4
  simp only [decode, hgroup, decodeGroup5, hn, hx, hy, BitVec.toNat_ofNat, Nat.zero_mod, if_true]

/-- Group 9 decodes only with the low nibble 0 (R66). -/
theorem decode_sneReg (x y : Reg) : decode (wordXYN 0x9#4 x y 0x0#4) = .ok (.sneReg x y) := by
  obtain ⟨hgroup, hx, hy, hn⟩ := fields_of_wordXYN (g := 0x9) (by decide) x y 0x0#4
  simp only [decode, hgroup, decodeGroup9, hn, hx, hy, BitVec.toNat_ofNat, Nat.zero_mod, if_true]

/-! ### Targets and skips -/

@[simp] theorem toNat_addrImm (nnn : Addr12) : (addrImm nnn).toNat = nnn.toNat :=
  BitVec.toNat_setWidth_of_le (by decide)

@[simp] theorem toNat_byteWord (b : Byte) : (byteWord b).toNat = b.toNat :=
  BitVec.toNat_setWidth_of_le (by decide)

/-- The largest sum, `0xFFF + 0xFF`, fits PC: nothing is lost (R109). -/
theorem toNat_addrImm_add_byteWord (nnn : Addr12) (b : Byte) :
    (addrImm nnn + byteWord b).toNat = nnn.toNat + b.toNat := by
  have hfits : nnn.toNat + b.toNat < 2 ^ 16 := by
    have hnnn := nnn.isLt
    have hb := b.isLt
    omega
  rw [BitVec.toNat_add, toNat_addrImm, toNat_byteWord, Nat.mod_eq_of_lt hfits]

theorem skipIf_beq_pc (s : State) (a b : Byte) : (s.skipIf (a == b)).pc = if a = b then s.pc + 2#16 else s.pc := by
  simp only [skipIf_pc, beq_iff_eq]

theorem skipIf_bne_pc (s : State) (a b : Byte) : (s.skipIf (a != b)).pc = if a = b then s.pc else s.pc + 2#16 := by
  simp only [skipIf_pc, bne_iff_ne, ne_eq, ite_not]

/-! ### A cycle of the host on an instruction that completes -/

/-- It answers `Ok` without a diagnostic, and the timer step follows the instruction (R63, R182). -/
theorem perform_cycle_of_completes {s t : State} {w : Word} {i : Instr} (e : Nat) (hfetch : fetch s = .ok w)
    (hdecode : decode w = .ok i) (hexec : exec i s.advance = .next t) :
    perform (.cycle e) s = (.ok, timerStep e t) := by
  simp only [perform, cycle_of_decoded e hfetch hdecode, hexec, thenTimers, diagnostic_of_decoded hfetch hdecode]

/-! ### The statements -/

/-- Settles O18: the rewind undoes the advance of PC, so only the timer step of the cycle is left. -/
theorem haltReexecutesItself : Obligations.HaltReexecutesItself := by
  have hdecode : decode 0x0000#16 = .ok .halt := rfl
  refine ⟨hdecode, fun s => ⟨s.rewind, rfl, rewind_pc s, keepsAllBut_setPc rfl⟩, fun s e hfetch => ?_⟩
  have hexec : exec .halt s.advance = .next s := congrArg _ (rewind_advance s)
  exact perform_cycle_of_completes e hfetch hdecode hexec

/-- Settles O20: the target is stored as it is. -/
theorem jumpSetsPc : Obligations.JumpSetsPc := fun nnn _ =>
  ⟨decode_jp nnn, _, rfl, toNat_addrImm nnn, keepsAllBut_setPc rfl⟩

/-- Settles O21: the sum fits 16 bits. -/
theorem jumpV0AddsV0 : Obligations.JumpV0AddsV0 := fun nnn s =>
  ⟨decode_jpV0 nnn, _, rfl, toNat_addrImm_add_byteWord nnn (s.readV 0), keepsAllBut_setPc rfl⟩

/-- Settles O24: both are a conditional skip on the advanced PC. -/
theorem immediateSkips : Obligations.ImmediateSkips := fun x nn s =>
  ⟨decode_seImm x nn, decode_sneImm x nn,
    ⟨_, rfl, skipIf_beq_pc s (s.readV x) nn, keepsAllBut_skipIf rfl⟩,
    ⟨_, rfl, skipIf_bne_pc s (s.readV x) nn, keepsAllBut_skipIf rfl⟩⟩

/-- Settles O25: both are a conditional skip on the advanced PC. -/
theorem registerSkips : Obligations.RegisterSkips := fun x y s =>
  ⟨decode_seReg x y, decode_sneReg x y,
    ⟨_, rfl, skipIf_beq_pc s (s.readV x) (s.readV y), keepsAllBut_skipIf rfl⟩,
    ⟨_, rfl, skipIf_bne_pc s (s.readV x) (s.readV y), keepsAllBut_skipIf rfl⟩⟩

end Sys2Proof.Machine
end

section
/-! PROOFS. Arithmetic and logic without a flag (spec/41_alu.md): the loads, the immediate addition and the bitwise
operations (R120 to R125). -/

namespace Sys2Proof.Machine

/-! ### What the patterns of R68 decode to -/

theorem decode_ldImm (x : Reg) (nn : Byte) : decode (wordXNN 0x6#4 x nn) = .ok (.ldImm x nn) := by
  obtain ⟨hgroup, hx, hnn⟩ := fields_of_wordXNN (g := 0x6) (by decide) x nn
  simp only [decode, hgroup, hx, hnn]

theorem decode_addImm (x : Reg) (nn : Byte) : decode (wordXNN 0x7#4 x nn) = .ok (.addImm x nn) := by
  obtain ⟨hgroup, hx, hnn⟩ := fields_of_wordXNN (g := 0x7) (by decide) x nn
  simp only [decode, hgroup, hx, hnn]

/-- In group 8 the low nibble alone chooses the operation; `x` and `y` are its operands (R67). -/
theorem decode_group8 {n : BitVec 4} {op : Reg → Reg → Instr}
    (hop : ∀ w, nOf w = n.toNat → decodeGroup8 w = .ok (op (xOf w) (yOf w))) (x y : Reg) :
    decode (wordXYN 0x8#4 x y n) = .ok (op x y) := by
  obtain ⟨hgroup, hx, hy, hn⟩ := fields_of_wordXYN (g := 0x8) (by decide) x y n
  simp only [decode, hgroup, hop _ hn, hx, hy]

theorem decode_ldReg (x y : Reg) : decode (wordXYN 0x8#4 x y 0x0#4) = .ok (.ldReg x y) :=
  decode_group8 (fun _ hn => by simp [decodeGroup8, hn]) x y

theorem decode_orReg (x y : Reg) : decode (wordXYN 0x8#4 x y 0x1#4) = .ok (.orReg x y) :=
  decode_group8 (fun _ hn => by simp [decodeGroup8, hn]) x y

theorem decode_andReg (x y : Reg) : decode (wordXYN 0x8#4 x y 0x2#4) = .ok (.andReg x y) :=
  decode_group8 (fun _ hn => by simp [decodeGroup8, hn]) x y

theorem decode_xorReg (x y : Reg) : decode (wordXYN 0x8#4 x y 0x3#4) = .ok (.xorReg x y) :=
  decode_group8 (fun _ hn => by simp [decodeGroup8, hn]) x y

/-! ### The result -/

@[simp] theorem readV_writeV_same (s : State) (x : Reg) (b : Byte) : (s.writeV x b).readV x = b := by
  rw [readV_writeV, if_pos rfl]

@[simp] theorem toNat_addByte (a b : Byte) : (addByte a b).toNat = (a.toNat + b.toNat) % 256 :=
  BitVec.toNat_ofNat _ _

/-! ### The statements -/

/-- Settles O26: the one write is of `Vx`. -/
theorem loadImmediateSetsVx : Obligations.LoadImmediateSetsVx := fun x nn s =>
  ⟨decode_ldImm x nn, s.writeV x nn, rfl, readV_writeV_same s x nn, keepsAllBut_writeV rfl⟩

/-- Settles O27: the one write is of `Vx`, and the byte it gets is the sum modulo 256. -/
theorem addImmediateWritesNoFlag : Obligations.AddImmediateWritesNoFlag := by
  intro x nn s
  refine ⟨decode_addImm x nn, s.writeV x (addByte (s.readV x) nn), rfl, ?_, keepsAllBut_writeV rfl⟩
  rw [readV_writeV_same, toNat_addByte]

/-- Settles O28: the one write is of `Vx`, and each operation acts on every bit by itself. -/
theorem moveAndLogicWriteNoFlag : Obligations.MoveAndLogicWriteNoFlag := by
  intro x y s
  refine ⟨decode_ldReg x y, decode_orReg x y, decode_andReg x y, decode_xorReg x y, ?ld, ?or, ?and, ?xor⟩
  case ld => exact ⟨s.writeV x (s.readV y), rfl, readV_writeV_same _ _ _, keepsAllBut_writeV rfl⟩
  case or =>
    refine ⟨s.writeV x (s.readV x ||| s.readV y), rfl, fun k => ?_, keepsAllBut_writeV rfl⟩
    rw [readV_writeV_same, BitVec.getLsbD_or]
  case and =>
    refine ⟨s.writeV x (s.readV x &&& s.readV y), rfl, fun k => ?_, keepsAllBut_writeV rfl⟩
    rw [readV_writeV_same, BitVec.getLsbD_and]
  case xor =>
    refine ⟨s.writeV x (s.readV x ^^^ s.readV y), rfl, fun k => ?_, keepsAllBut_writeV rfl⟩
    rw [readV_writeV_same, BitVec.getLsbD_xor]

end Sys2Proof.Machine
end

section
/-! PROOFS. Keyboard (spec/42_io.md): the wait for a key (R142). -/

namespace Sys2Proof.Machine

/-! ### What the pattern of R68 decodes to -/

/-- In group F the low byte alone chooses the operation; `x` is its operand (R69). -/
theorem decode_groupF {nn : Byte} {op : Reg → Instr}
    (hop : ∀ w, nnOf w = nn → decodeGroupF w = .ok (op (xOf w))) (x : Reg) :
    decode (wordXNN 0xF#4 x nn) = .ok (op x) := by
  obtain ⟨hgroup, hx, hnn⟩ := fields_of_wordXNN (g := 0xF) (by decide) x nn
  simp only [decode, hgroup, hop _ hnn, hx]

theorem decode_ldVxK (x : Reg) : decode (wordXNN 0xF#4 x 0x0A#8) = .ok (.ldVxK x) :=
  decode_groupF (fun _ hnn => by simp [decodeGroupF, hnn]) x

/-! ### The key it takes -/

/-- The least pressed key is the one found: the one found is pressed, and no pressed key is below it (R142). -/
theorem firstKey?_of_least {s : State} {k : Fin 16} (hdown : s.keyDown k = true)
    (hleast : ∀ j : Fin 16, j < k → s.keyDown j = false) : s.firstKey? = some k := by
  cases hfound : s.firstKey? with
  | none =>
    have hup := firstKey?_eq_none.mp hfound k
    simp [hup] at hdown
  | some m =>
    obtain ⟨hmdown, hmleast⟩ := firstKey?_eq_some hfound
    have hkm : ¬ k < m := fun hlt => by simp [hmleast k hlt] at hdown
    have hmk : ¬ m < k := fun hlt => by simp [hleast m hlt] at hmdown
    rw [le_antisymm (not_lt.mp hkm) (not_lt.mp hmk)]

theorem exec_ldVxK_of_some {s : State} {k : Fin 16} (x : Reg) (h : s.firstKey? = some k) :
    exec (.ldVxK x) s = .next (s.writeV x (BitVec.ofNat 8 k.val)) := by
  simp only [exec, execLdVxK, h]

theorem exec_ldVxK_of_none {s : State} (x : Reg) (h : s.firstKey? = none) :
    exec (.ldVxK x) s = .next s.rewind := by
  simp only [exec, execLdVxK, h]

/-- A key code fits the byte that receives it. -/
theorem toNat_keyByte (k : Fin 16) : (BitVec.ofNat 8 k.val).toNat = k.val :=
  (BitVec.toNat_ofNat _ _).trans (Nat.mod_eq_of_lt (by omega))

/-! ### The statement -/

/-- Settles O34: the first key found is the least pressed one, and without one the rewind undoes the advance of PC, so only the
timer step of the cycle is left. -/
theorem keyWaitTakesLeastKey : Obligations.KeyWaitTakesLeastKey := by
  intro x s
  refine ⟨decode_ldVxK x, fun k hdown hleast => ?pressed, fun hup => ⟨?waits, fun e hfetch => ?cycle⟩⟩
  case pressed =>
    refine ⟨_, exec_ldVxK_of_some x (firstKey?_of_least hdown hleast), ?_, keepsAllBut_writeV rfl⟩
    rw [readV_writeV_same, toNat_keyByte]
  case waits =>
    exact ⟨s.rewind, exec_ldVxK_of_none x (firstKey?_eq_none.mpr hup), rewind_pc s, keepsAllBut_setPc rfl⟩
  case cycle =>
    have hnone : s.advance.firstKey? = none := firstKey?_eq_none.mpr hup
    have hexec : exec (.ldVxK x) s.advance = .next s := by rw [exec_ldVxK_of_none x hnone, rewind_advance]
    exact perform_cycle_of_completes e hfetch (decode_ldVxK x) hexec

end Sys2Proof.Machine
end

section
/-! PROOFS. The index register (spec/43_index_memory.md): the loads of `I` (R150, R152). -/

namespace Sys2Proof.Machine

/-! ### What the patterns of R68 decode to -/

theorem decode_ldI (nnn : Addr12) : decode (wordNNN 0xA#4 nnn) = .ok (.ldI nnn) := by
  obtain ⟨hgroup, hnnn⟩ := fields_of_wordNNN (g := 0xA) (by decide) nnn
  simp only [decode, hgroup, hnnn]

theorem decode_ldF (x : Reg) : decode (wordXNN 0xF#4 x 0x29#8) = .ok (.ldF x) :=
  decode_groupF (fun _ hnn => by simp [decodeGroupF, hnn]) x

/-! ### The one write, and the value it stores -/

/-- Writing `I` keeps everything else. -/
theorem keepsAllBut_setI {touched : StatePart → Prop} {s : State} {w : Word} (h : touched .i) :
    KeepsAllBut touched s (s.setI w) := by
  intro p hp
  cases p with
  | i => exact absurd h hp
  | _ => rfl

/-- Five times the largest byte fits `I`: nothing is lost (R152). -/
theorem toNat_glyphAddress (b : Byte) : (BitVec.ofNat 16 (b.toNat * Config.glyphBytes)).toNat = b.toNat * 5 := by
  have hfits : b.toNat * 5 < 2 ^ 16 := by
    have hb := b.isLt
    omega
  exact (BitVec.toNat_ofNat _ _).trans (Nat.mod_eq_of_lt hfits)

/-! ### The statement -/

/-- Settles O36: the one write is of `I`, and both values fit it. -/
theorem indexLoads : Obligations.IndexLoads := by
  refine ⟨fun nnn s => ⟨decode_ldI nnn, ?imm⟩, fun x s => ⟨decode_ldF x, ?font⟩⟩
  case imm => exact ⟨s.setI (addrImm nnn), rfl, toNat_addrImm nnn, keepsAllBut_setI rfl⟩
  case font => exact ⟨_, rfl, toNat_glyphAddress (s.readV x), keepsAllBut_setI rfl⟩

end Sys2Proof.Machine
end

section
/-! PROOFS. The display (spec/44_display.md): the clear (R160). -/

namespace Sys2Proof.Machine

/-- A new display writes the cells and the redraw flag, and keeps everything else. -/
theorem keepsAllBut_setDisplay {touched : StatePart → Prop} {s : State} {d : Display} (hcell : ∀ y x, touched (.cell y x))
    (hrdrw : touched .rdrw) : KeepsAllBut touched s (s.setDisplay d) := by
  intro p hp
  cases p with
  | cell y x => exact absurd (hcell y x) hp
  | rdrw => exact absurd hrdrw hp
  | _ => rfl

/-- Settles O43: the one write is of the blank display, with the redraw flag. -/
theorem clearUnsetsEveryCell : Obligations.ClearUnsetsEveryCell := by
  have hdecode : decode 0x00E0#16 = .ok .cls := rfl
  refine ⟨hdecode, fun s => ⟨s.setDisplay blankDisplay, rfl, cellAt_blank, setDisplay_rdrw s blankDisplay, ?keeps⟩⟩
  case keeps => exact keepsAllBut_setDisplay (fun y x => .inl ⟨y, x, rfl⟩) (.inr rfl)

end Sys2Proof.Machine
end

section
/-! PROOFS. The host's reading of the display (spec/60_exceptions.md): the framebuffer (R193). -/

namespace Sys2Proof.Machine

/-- The cells of `framebuffer()` are the display's rows joined in order. -/
theorem cellsOf_eq_flatten (d : Display) : cellsOf d = d.flatten.toList := by
  have hrows : d.flatten.toList = ((d.toArray.map Vector.toArray).toList.map Array.toList).flatten := Array.toList_flatten
  rw [hrows, Array.toList_map, List.map_map]
  rfl

theorem length_cellsOf (d : Display) : (cellsOf d).length = 2048 := by
  rw [cellsOf_eq_flatten]
  exact Vector.length_toList

/-- Rows are 64 cells wide, so `y * 64 + x` is column `x` of row `y` (R19). -/
theorem getElem?_cellsOf (d : Display) (y : Fin 32) (x : Fin 64) :
    (cellsOf d)[y.val * 64 + x.val]? = some (cellAt d y x) := by
  have hindex : y.val * 64 + x.val < 32 * 64 := by omega
  have hrow : (y.val * 64 + x.val) / 64 = y.val := by omega
  have hcol : (y.val * 64 + x.val) % 64 = x.val := by omega
  rw [cellsOf_eq_flatten, Vector.getElem?_toList, Vector.getElem?_eq_getElem hindex, Vector.getElem_flatten]
  simp only [hrow, hcol, cellAt, Fin.getElem_fin]

/-- Settles O51: the response is `cellsOf` of the display, and the state is handed on. -/
theorem framebufferIsRowMajor : Obligations.FramebufferIsRowMajor := by
  intro s
  exact ⟨cellsOf s.fb, rfl, length_cellsOf s.fb, getElem?_cellsOf s.fb⟩

end Sys2Proof.Machine
end

section
/-! PROOFS. Encoding (spec/30_encoding.md): the decoder and the encoder are inverse to each other, and both follow the opcode
table (R60 to R70). -/

namespace Sys2Proof.Machine

/-! ### What the remaining patterns of R68 decode to -/

theorem decode_call (nnn : Addr12) : decode (wordNNN 0x2#4 nnn) = .ok (.call nnn) := by
  obtain ⟨hgroup, hnnn⟩ := fields_of_wordNNN (g := 0x2) (by decide) nnn
  simp only [decode, hgroup, hnnn]

theorem decode_addReg (x y : Reg) : decode (wordXYN 0x8#4 x y 0x4#4) = .ok (.addReg x y) :=
  decode_group8 (fun _ hn => by simp [decodeGroup8, hn]) x y

theorem decode_subReg (x y : Reg) : decode (wordXYN 0x8#4 x y 0x5#4) = .ok (.subReg x y) :=
  decode_group8 (fun _ hn => by simp [decodeGroup8, hn]) x y

theorem decode_shr (x y : Reg) : decode (wordXYN 0x8#4 x y 0x6#4) = .ok (.shr x y) :=
  decode_group8 (fun _ hn => by simp [decodeGroup8, hn]) x y

theorem decode_subnReg (x y : Reg) : decode (wordXYN 0x8#4 x y 0x7#4) = .ok (.subnReg x y) :=
  decode_group8 (fun _ hn => by simp [decodeGroup8, hn]) x y

theorem decode_shl (x y : Reg) : decode (wordXYN 0x8#4 x y 0xE#4) = .ok (.shl x y) :=
  decode_group8 (fun _ hn => by simp [decodeGroup8, hn]) x y

theorem decode_rnd (x : Reg) (nn : Byte) : decode (wordXNN 0xC#4 x nn) = .ok (.rnd x nn) := by
  obtain ⟨hgroup, hx, hnn⟩ := fields_of_wordXNN (g := 0xC) (by decide) x nn
  simp only [decode, hgroup, hx, hnn]

theorem decode_drw (x y : Reg) (n : BitVec 4) : decode (wordXYN 0xD#4 x y n) = .ok (.drw x y n.toNat) := by
  obtain ⟨hgroup, hx, hy, hn⟩ := fields_of_wordXYN (g := 0xD) (by decide) x y n
  simp only [decode, hgroup, hx, hy, hn]

/-- In group E the low byte alone chooses the operation; `x` is its operand (R69). -/
theorem decode_groupE {nn : Byte} {op : Reg → Instr}
    (hop : ∀ w, nnOf w = nn → decodeGroupE w = .ok (op (xOf w))) (x : Reg) :
    decode (wordXNN 0xE#4 x nn) = .ok (op x) := by
  obtain ⟨hgroup, hx, hnn⟩ := fields_of_wordXNN (g := 0xE) (by decide) x nn
  simp only [decode, hgroup, hop _ hnn, hx]

theorem decode_skp (x : Reg) : decode (wordXNN 0xE#4 x 0x9E#8) = .ok (.skp x) :=
  decode_groupE (fun _ hnn => by simp [decodeGroupE, hnn]) x

theorem decode_sknp (x : Reg) : decode (wordXNN 0xE#4 x 0xA1#8) = .ok (.sknp x) :=
  decode_groupE (fun _ hnn => by simp [decodeGroupE, hnn]) x

theorem decode_ldVxDT (x : Reg) : decode (wordXNN 0xF#4 x 0x07#8) = .ok (.ldVxDT x) :=
  decode_groupF (fun _ hnn => by simp [decodeGroupF, hnn]) x

theorem decode_ldDTVx (x : Reg) : decode (wordXNN 0xF#4 x 0x15#8) = .ok (.ldDTVx x) :=
  decode_groupF (fun _ hnn => by simp [decodeGroupF, hnn]) x

theorem decode_ldSTVx (x : Reg) : decode (wordXNN 0xF#4 x 0x18#8) = .ok (.ldSTVx x) :=
  decode_groupF (fun _ hnn => by simp [decodeGroupF, hnn]) x

theorem decode_addI (x : Reg) : decode (wordXNN 0xF#4 x 0x1E#8) = .ok (.addI x) :=
  decode_groupF (fun _ hnn => by simp [decodeGroupF, hnn]) x

theorem decode_ldB (x : Reg) : decode (wordXNN 0xF#4 x 0x33#8) = .ok (.ldB x) :=
  decode_groupF (fun _ hnn => by simp [decodeGroupF, hnn]) x

theorem decode_storeRegs (x : Reg) : decode (wordXNN 0xF#4 x 0x55#8) = .ok (.storeRegs x) :=
  decode_groupF (fun _ hnn => by simp [decodeGroupF, hnn]) x

theorem decode_loadRegs (x : Reg) : decode (wordXNN 0xF#4 x 0x65#8) = .ok (.loadRegs x) :=
  decode_groupF (fun _ hnn => by simp [decodeGroupF, hnn]) x

/-! ### Decoding an encoding -/

/-- An instruction whose encoding is a packed word decodes from it when the pattern does. -/
theorem decode_encode_nnn {g : Nat} {nnn : Addr12} {i : Instr} (h : decode (wordNNN (BitVec.ofNat 4 g) nnn) = .ok i)
    (henc : encode i = packNNN g nnn.toNat := by rfl) (hg : g < 16 := by decide) : decode (encode i) = .ok i := by
  rw [henc, ← wordNNN_eq_pack hg, h]

theorem decode_encode_xnn {g : Nat} {x : Reg} {nn : Byte} {i : Instr}
    (h : decode (wordXNN (BitVec.ofNat 4 g) x nn) = .ok i)
    (henc : encode i = packXNN g x nn.toNat := by rfl) (hg : g < 16 := by decide) : decode (encode i) = .ok i := by
  rw [henc, ← wordXNN_eq_pack hg, h]

theorem decode_encode_xyn {g : Nat} {x y : Reg} {n : BitVec 4} {i : Instr}
    (h : decode (wordXYN (BitVec.ofNat 4 g) x y n) = .ok i)
    (henc : encode i = packXYN g x y n.toNat := by rfl) (hg : g < 16 := by decide) : decode (encode i) = .ok i := by
  rw [henc, ← wordXYN_eq_pack hg, h]

/-- The word of a well-formed instruction decodes to it (R62, R73). -/
theorem decode_encode {i : Instr} (hwf : i.wellFormed = true) : decode (encode i) = .ok i := by
  cases i with
  | cls | ret | halt => rfl
  | jp nnn => exact decode_encode_nnn (decode_jp nnn)
  | call nnn => exact decode_encode_nnn (decode_call nnn)
  | ldI nnn => exact decode_encode_nnn (decode_ldI nnn)
  | jpV0 nnn => exact decode_encode_nnn (decode_jpV0 nnn)
  | seImm x nn => exact decode_encode_xnn (decode_seImm x nn)
  | sneImm x nn => exact decode_encode_xnn (decode_sneImm x nn)
  | ldImm x nn => exact decode_encode_xnn (decode_ldImm x nn)
  | addImm x nn => exact decode_encode_xnn (decode_addImm x nn)
  | rnd x nn => exact decode_encode_xnn (decode_rnd x nn)
  | seReg x y => exact decode_encode_xyn (decode_seReg x y)
  | sneReg x y => exact decode_encode_xyn (decode_sneReg x y)
  | ldReg x y => exact decode_encode_xyn (decode_ldReg x y)
  | orReg x y => exact decode_encode_xyn (decode_orReg x y)
  | andReg x y => exact decode_encode_xyn (decode_andReg x y)
  | xorReg x y => exact decode_encode_xyn (decode_xorReg x y)
  | addReg x y => exact decode_encode_xyn (decode_addReg x y)
  | subReg x y => exact decode_encode_xyn (decode_subReg x y)
  | shr x y => exact decode_encode_xyn (decode_shr x y)
  | subnReg x y => exact decode_encode_xyn (decode_subnReg x y)
  | shl x y => exact decode_encode_xyn (decode_shl x y)
  | drw x y n =>
    have hn : (BitVec.ofNat 4 n).toNat = n := Nat.mod_eq_of_lt (of_decide_eq_true hwf)
    have h := decode_drw x y (BitVec.ofNat 4 n)
    rw [hn] at h
    exact decode_encode_xyn h (by rw [hn]; rfl)
  | skp x => exact decode_encode_xnn (decode_skp x)
  | sknp x => exact decode_encode_xnn (decode_sknp x)
  | ldVxDT x => exact decode_encode_xnn (decode_ldVxDT x)
  | ldVxK x => exact decode_encode_xnn (decode_ldVxK x)
  | ldDTVx x => exact decode_encode_xnn (decode_ldDTVx x)
  | ldSTVx x => exact decode_encode_xnn (decode_ldSTVx x)
  | addI x => exact decode_encode_xnn (decode_addI x)
  | ldF x => exact decode_encode_xnn (decode_ldF x)
  | ldB x => exact decode_encode_xnn (decode_ldB x)
  | storeRegs x => exact decode_encode_xnn (decode_storeRegs x)
  | loadRegs x => exact decode_encode_xnn (decode_loadRegs x)

/-- Settles O1: each word is closed, so the dispatch runs on it. -/
theorem writtenWordsDecode : Obligations.WrittenWordsDecode := by
  unfold Obligations.WrittenWordsDecode
  decide

/-- Settles O2: case by case for the word, and the two bytes make the word again. -/
theorem decodeOfEncode : Obligations.DecodeOfEncode := by
  intro i rest hwf
  refine ⟨decode_encode hwf, ?_⟩
  simp only [encodeBytes, List.cons_append, List.nil_append, decodeBytes, wordOfBytes_hi_lo, decode_encode hwf]

/-! ### Encoding what was decoded -/

theorem packNNN_fields {w : Word} {g : Nat} (hg : w.toNat / 4096 = g) : packNNN g (nnnOf w).toNat = w := by
  have hw := w.isLt
  apply BitVec.eq_of_toNat_eq
  rw [packNNN_toNat (by omega) (nnnOf w).isLt, nnnOf_toNat]
  omega

theorem packXNN_fields {w : Word} {g nn : Nat} (h : w.toNat / 4096 = g ∧ w.toNat % 256 = nn) :
    packXNN g (xOf w) nn = w := by
  have hw := w.isLt
  apply BitVec.eq_of_toNat_eq
  rw [packXNN_toNat (by omega) (xOf w).isLt (by omega), xOf_val]
  omega

theorem packXYN_fields {w : Word} {g n : Nat} (h : w.toNat / 4096 = g ∧ w.toNat % 16 = n) :
    packXYN g (xOf w) (yOf w) n = w := by
  have hw := w.isLt
  apply BitVec.eq_of_toNat_eq
  rw [packXYN_toNat (by omega) (xOf w).isLt (yOf w).isLt (by omega), xOf_val, yOf_val]
  omega

/-! ### What the mask of a row leaves of a word (R68) -/

theorem wordNNN_and_F000 (g : BitVec 4) (nnn : Addr12) : wordNNN g nnn &&& 0xF000#16 = wordNNN g 0#12 := by
  have hmask : (0xF000#16 : Word) = BitVec.allOnes 4 ++ 0#12 := by decide
  rw [hmask, wordNNN, BitVec.and_append, BitVec.and_allOnes, BitVec.and_zero]
  rfl

theorem wordXNN_and_F0FF (g : BitVec 4) (x : Reg) (nn : Byte) : wordXNN g x nn &&& 0xF0FF#16 = wordXNN g 0 nn := by
  have hmask : (0xF0FF#16 : Word) = (BitVec.allOnes 4 ++ 0#4) ++ BitVec.allOnes 8 := by decide
  rw [hmask, wordXNN, BitVec.and_append, BitVec.and_append, BitVec.and_allOnes, BitVec.and_zero, BitVec.and_allOnes]
  rfl

theorem wordXYN_and_F00F (g : BitVec 4) (x y : Reg) (n : BitVec 4) :
    wordXYN g x y n &&& 0xF00F#16 = wordXYN g 0 0 n := by
  have hmask : (0xF00F#16 : Word) = (BitVec.allOnes 4 ++ 0#4) ++ (0#4 ++ BitVec.allOnes 4) := by decide
  rw [hmask, wordXYN, BitVec.and_append]
  simp only [BitVec.and_append, BitVec.and_allOnes, BitVec.and_zero]
  rfl

theorem toNat_and_F000 (w : Word) : (w &&& 0xF000#16).toNat = w.toNat / 4096 * 4096 := by
  have hg : w.toNat / 4096 < 16 := by omega
  have h := wordNNN_and_F000 (BitVec.ofNat 4 (w.toNat / 4096)) (nnnOf w)
  rw [wordNNN_eq_pack hg, packNNN_fields rfl, wordNNN_eq_pack hg] at h
  rw [h, packNNN_toNat hg (by decide)]
  simp

theorem toNat_and_F0FF (w : Word) : (w &&& 0xF0FF#16).toNat = w.toNat / 4096 * 4096 + w.toNat % 256 := by
  have hg : w.toNat / 4096 < 16 := by omega
  have h := wordXNN_and_F0FF (BitVec.ofNat 4 (w.toNat / 4096)) (xOf w) (nnOf w)
  rw [wordXNN_eq_pack hg, packXNN_fields ⟨rfl, (nnOf_toNat w).symm⟩, wordXNN_eq_pack hg] at h
  rw [h, packXNN_toNat hg (by decide) (nnOf w).isLt, nnOf_toNat]
  simp

theorem toNat_and_F00F (w : Word) : (w &&& 0xF00F#16).toNat = w.toNat / 4096 * 4096 + w.toNat % 16 := by
  have hg : w.toNat / 4096 < 16 := by omega
  have hn : (BitVec.ofNat 4 (w.toNat % 16)).toNat = w.toNat % 16 := Nat.mod_mod _ _
  have h := wordXYN_and_F00F (BitVec.ofNat 4 (w.toNat / 4096)) (xOf w) (yOf w) (BitVec.ofNat 4 (w.toNat % 16))
  rw [wordXYN_eq_pack hg, packXYN_fields ⟨rfl, hn.symm⟩, wordXYN_eq_pack hg, hn] at h
  rw [h, packXYN_toNat hg (by decide) (by decide) (Nat.mod_lt _ (by decide))]
  simp

/-! ### Being of a row, in numbers -/

theorem matchesRow_whole {i : Instr} {w m : Word} (hrow : rowOf i = (0xFFFF#16, m)) :
    matchesRow i w = true ↔ w = m := by
  have hmask : w &&& 0xFFFF#16 = w := BitVec.and_allOnes
  rw [matchesRow, hrow, beq_iff_eq, hmask]

theorem matchesRow_group {i : Instr} {w : Word} (g : Nat) (hrow : rowOf i = (0xF000#16, packNNN g 0) := by rfl)
    (hg : g < 16 := by decide) : matchesRow i w = true ↔ w.toNat / 4096 = g := by
  rw [matchesRow, hrow, beq_iff_eq, ← BitVec.toNat_inj, toNat_and_F000, packNNN_toNat hg (by decide)]
  omega

theorem matchesRow_group_nn {i : Instr} {w : Word} (g nn : Nat) (hrow : rowOf i = (0xF0FF#16, packXNN g 0 nn) := by rfl)
    (hg : g < 16 := by decide) (hnn : nn < 256 := by decide) :
    matchesRow i w = true ↔ w.toNat / 4096 = g ∧ w.toNat % 256 = nn := by
  rw [matchesRow, hrow, beq_iff_eq, ← BitVec.toNat_inj, toNat_and_F0FF, packXNN_toNat hg (by decide) hnn]
  omega

theorem matchesRow_group_n {i : Instr} {w : Word} (g n : Nat) (hrow : rowOf i = (0xF00F#16, packXYN g 0 0 n) := by rfl)
    (hg : g < 16 := by decide) (hn : n < 16 := by decide) :
    matchesRow i w = true ↔ w.toNat / 4096 = g ∧ w.toNat % 16 = n := by
  rw [matchesRow, hrow, beq_iff_eq, ← BitVec.toNat_inj, toNat_and_F00F, packXYN_toNat hg (by decide) (by decide) hn]
  omega

/-- A word of a row encodes an instruction: the operands are the fields of the word. -/
theorem exists_encode_of_matchesRow {i : Instr} {w : Word} (h : matchesRow i w = true) :
    ∃ j, j.wellFormed = true ∧ encode j = w := by
  cases i with
  | cls => exact ⟨.cls, rfl, ((matchesRow_whole rfl).mp h).symm⟩
  | ret => exact ⟨.ret, rfl, ((matchesRow_whole rfl).mp h).symm⟩
  | halt => exact ⟨.halt, rfl, ((matchesRow_whole rfl).mp h).symm⟩
  | jp => exact ⟨.jp (nnnOf w), rfl, packNNN_fields ((matchesRow_group 0x1).mp h)⟩
  | call => exact ⟨.call (nnnOf w), rfl, packNNN_fields ((matchesRow_group 0x2).mp h)⟩
  | ldI => exact ⟨.ldI (nnnOf w), rfl, packNNN_fields ((matchesRow_group 0xA).mp h)⟩
  | jpV0 => exact ⟨.jpV0 (nnnOf w), rfl, packNNN_fields ((matchesRow_group 0xB).mp h)⟩
  | seImm => exact ⟨.seImm (xOf w) (nnOf w), rfl, packXNN_fields ⟨(matchesRow_group 0x3).mp h, (nnOf_toNat w).symm⟩⟩
  | sneImm => exact ⟨.sneImm (xOf w) (nnOf w), rfl, packXNN_fields ⟨(matchesRow_group 0x4).mp h, (nnOf_toNat w).symm⟩⟩
  | ldImm => exact ⟨.ldImm (xOf w) (nnOf w), rfl, packXNN_fields ⟨(matchesRow_group 0x6).mp h, (nnOf_toNat w).symm⟩⟩
  | addImm => exact ⟨.addImm (xOf w) (nnOf w), rfl, packXNN_fields ⟨(matchesRow_group 0x7).mp h, (nnOf_toNat w).symm⟩⟩
  | rnd => exact ⟨.rnd (xOf w) (nnOf w), rfl, packXNN_fields ⟨(matchesRow_group 0xC).mp h, (nnOf_toNat w).symm⟩⟩
  | drw =>
    have hwf : nOf w < 16 := nOf_eq w ▸ Nat.mod_lt _ (by decide)
    exact ⟨.drw (xOf w) (yOf w) (nOf w), decide_eq_true hwf,
      packXYN_fields ⟨(matchesRow_group 0xD).mp h, (nOf_eq w).symm⟩⟩
  | seReg => exact ⟨.seReg (xOf w) (yOf w), rfl, packXYN_fields ((matchesRow_group_n 0x5 0x0).mp h)⟩
  | sneReg => exact ⟨.sneReg (xOf w) (yOf w), rfl, packXYN_fields ((matchesRow_group_n 0x9 0x0).mp h)⟩
  | ldReg => exact ⟨.ldReg (xOf w) (yOf w), rfl, packXYN_fields ((matchesRow_group_n 0x8 0x0).mp h)⟩
  | orReg => exact ⟨.orReg (xOf w) (yOf w), rfl, packXYN_fields ((matchesRow_group_n 0x8 0x1).mp h)⟩
  | andReg => exact ⟨.andReg (xOf w) (yOf w), rfl, packXYN_fields ((matchesRow_group_n 0x8 0x2).mp h)⟩
  | xorReg => exact ⟨.xorReg (xOf w) (yOf w), rfl, packXYN_fields ((matchesRow_group_n 0x8 0x3).mp h)⟩
  | addReg => exact ⟨.addReg (xOf w) (yOf w), rfl, packXYN_fields ((matchesRow_group_n 0x8 0x4).mp h)⟩
  | subReg => exact ⟨.subReg (xOf w) (yOf w), rfl, packXYN_fields ((matchesRow_group_n 0x8 0x5).mp h)⟩
  | shr => exact ⟨.shr (xOf w) (yOf w), rfl, packXYN_fields ((matchesRow_group_n 0x8 0x6).mp h)⟩
  | subnReg => exact ⟨.subnReg (xOf w) (yOf w), rfl, packXYN_fields ((matchesRow_group_n 0x8 0x7).mp h)⟩
  | shl => exact ⟨.shl (xOf w) (yOf w), rfl, packXYN_fields ((matchesRow_group_n 0x8 0xE).mp h)⟩
  | skp => exact ⟨.skp (xOf w), rfl, packXNN_fields ((matchesRow_group_nn 0xE 0x9E).mp h)⟩
  | sknp => exact ⟨.sknp (xOf w), rfl, packXNN_fields ((matchesRow_group_nn 0xE 0xA1).mp h)⟩
  | ldVxDT => exact ⟨.ldVxDT (xOf w), rfl, packXNN_fields ((matchesRow_group_nn 0xF 0x07).mp h)⟩
  | ldVxK => exact ⟨.ldVxK (xOf w), rfl, packXNN_fields ((matchesRow_group_nn 0xF 0x0A).mp h)⟩
  | ldDTVx => exact ⟨.ldDTVx (xOf w), rfl, packXNN_fields ((matchesRow_group_nn 0xF 0x15).mp h)⟩
  | ldSTVx => exact ⟨.ldSTVx (xOf w), rfl, packXNN_fields ((matchesRow_group_nn 0xF 0x18).mp h)⟩
  | addI => exact ⟨.addI (xOf w), rfl, packXNN_fields ((matchesRow_group_nn 0xF 0x1E).mp h)⟩
  | ldF => exact ⟨.ldF (xOf w), rfl, packXNN_fields ((matchesRow_group_nn 0xF 0x29).mp h)⟩
  | ldB => exact ⟨.ldB (xOf w), rfl, packXNN_fields ((matchesRow_group_nn 0xF 0x33).mp h)⟩
  | storeRegs => exact ⟨.storeRegs (xOf w), rfl, packXNN_fields ((matchesRow_group_nn 0xF 0x55).mp h)⟩
  | loadRegs => exact ⟨.loadRegs (xOf w), rfl, packXNN_fields ((matchesRow_group_nn 0xF 0x65).mp h)⟩

/-! ### What a word decodes to -/

/-- What an instruction read from a word has to be: well formed, encoded as that word, and of a row the word matches. -/
def IsInstrOf (w : Word) (i : Instr) : Prop := i.wellFormed = true ∧ encode i = w ∧ matchesRow i w = true

theorem isInstrOf_of_decodeGroup0 {w : Word} {i : Instr} (h : decodeGroup0 w = .ok i) : IsInstrOf w i := by
  unfold decodeGroup0 at h
  split_ifs at h with h1 h2 h3 <;> cases h
  · exact ⟨rfl, h1.symm, (matchesRow_whole rfl).mpr h1⟩
  · exact ⟨rfl, h2.symm, (matchesRow_whole rfl).mpr h2⟩
  · exact ⟨rfl, h3.symm, (matchesRow_whole rfl).mpr h3⟩

theorem isInstrOf_of_decodeGroup5 {w : Word} {i : Instr} (hg : w.toNat / 4096 = 0x5) (h : decodeGroup5 w = .ok i) :
    IsInstrOf w i := by
  rw [decodeGroup5, nOf_eq] at h
  split_ifs at h with hn
  cases h
  exact ⟨rfl, packXYN_fields ⟨hg, hn⟩, (matchesRow_group_n 0x5 0x0).mpr ⟨hg, hn⟩⟩

theorem isInstrOf_of_decodeGroup8 {w : Word} {i : Instr} (hg : w.toNat / 4096 = 0x8) (h : decodeGroup8 w = .ok i) :
    IsInstrOf w i := by
  rw [decodeGroup8, nOf_eq] at h
  split at h
  case h_10 => cases h
  all_goals
    rename_i hn
    cases h
    exact ⟨rfl, packXYN_fields ⟨hg, hn⟩, (matchesRow_group_n 0x8 _).mpr ⟨hg, hn⟩⟩

theorem isInstrOf_of_decodeGroup9 {w : Word} {i : Instr} (hg : w.toNat / 4096 = 0x9) (h : decodeGroup9 w = .ok i) :
    IsInstrOf w i := by
  rw [decodeGroup9, nOf_eq] at h
  split_ifs at h with hn
  cases h
  exact ⟨rfl, packXYN_fields ⟨hg, hn⟩, (matchesRow_group_n 0x9 0x0).mpr ⟨hg, hn⟩⟩

theorem nnOf_eq_iff (w : Word) (nn : Byte) : nnOf w = nn ↔ w.toNat % 256 = nn.toNat := by
  rw [← BitVec.toNat_inj, nnOf_toNat]

theorem isInstrOf_of_decodeGroupE {w : Word} {i : Instr} (hg : w.toNat / 4096 = 0xE) (h : decodeGroupE w = .ok i) :
    IsInstrOf w i := by
  unfold decodeGroupE at h
  split_ifs at h <;> rename_i hnn <;> cases h <;> replace hnn := (nnOf_eq_iff w _).mp hnn
  all_goals exact ⟨rfl, packXNN_fields ⟨hg, hnn⟩, (matchesRow_group_nn 0xE _).mpr ⟨hg, hnn⟩⟩

theorem isInstrOf_of_decodeGroupF {w : Word} {i : Instr} (hg : w.toNat / 4096 = 0xF) (h : decodeGroupF w = .ok i) :
    IsInstrOf w i := by
  unfold decodeGroupF at h
  split_ifs at h <;> rename_i hnn <;> cases h <;> replace hnn := (nnOf_eq_iff w _).mp hnn
  all_goals exact ⟨rfl, packXNN_fields ⟨hg, hnn⟩, (matchesRow_group_nn 0xF _).mpr ⟨hg, hnn⟩⟩

/-- The first level of the dispatch (R64). -/
theorem isInstrOf_of_decode {w : Word} {i : Instr} (h : decode w = .ok i) : IsInstrOf w i := by
  have hw := w.isLt
  unfold decode at h
  rw [groupOf_toNat] at h
  split at h
  case h_1 => exact isInstrOf_of_decodeGroup0 h
  case h_6 hg => exact isInstrOf_of_decodeGroup5 hg h
  case h_9 hg => exact isInstrOf_of_decodeGroup8 hg h
  case h_10 hg => exact isInstrOf_of_decodeGroup9 hg h
  case h_14 hg =>
    cases h
    exact ⟨decide_eq_true (nOf_eq w ▸ Nat.mod_lt _ (by decide)), packXYN_fields ⟨hg, (nOf_eq w).symm⟩,
      (matchesRow_group 0xD).mpr hg⟩
  case h_15 hg => exact isInstrOf_of_decodeGroupE hg h
  case h_16 =>
    simp only [imp_false] at *
    exact isInstrOf_of_decodeGroupF (by omega) h
  case h_2 hg | h_3 hg | h_11 hg | h_12 hg =>
    cases h
    exact ⟨rfl, packNNN_fields hg, (matchesRow_group _).mpr hg⟩
  case h_4 hg | h_5 hg | h_7 hg | h_8 hg | h_13 hg =>
    cases h
    exact ⟨rfl, packXNN_fields ⟨hg, (nnOf_toNat w).symm⟩, (matchesRow_group _).mpr hg⟩

/-- Settles O3: handler by handler, the fields of the word are packed again. -/
theorem encodeOfDecode : Obligations.EncodeOfDecode := by
  intro w i h
  obtain ⟨hwf, henc, _⟩ := isInstrOf_of_decode h
  exact ⟨hwf, henc⟩

/-! ### The opcode table (R68) -/

/-- Two rows that are not the same differ in a bit that both their masks keep. -/
theorem rows_disjoint : ∀ a ∈ opcodeTable, ∀ b ∈ opcodeTable,
    (rowOf a).2 &&& (rowOf b).1 = (rowOf b).2 &&& (rowOf a).1 → a = b := by
  decide

theorem eq_of_matchesRow {a b : Instr} {w : Word} (ha : a ∈ opcodeTable) (hb : b ∈ opcodeTable)
    (hwa : matchesRow a w = true) (hwb : matchesRow b w = true) : a = b := by
  rw [matchesRow, beq_iff_eq] at hwa hwb
  apply rows_disjoint a ha b hb
  rw [← hwa, ← hwb, BitVec.and_assoc, BitVec.and_assoc, BitVec.and_comm (rowOf a).1]

/-- The row of every instruction is in the table. -/
theorem exists_row_in_opcodeTable (i : Instr) : ∃ a ∈ opcodeTable, rowOf a = rowOf i := by
  cases i <;> dsimp only [rowOf] <;> decide

theorem exists_decode_of_matchesRow {i : Instr} {w : Word} (h : matchesRow i w = true) : ∃ j, decode w = .ok j := by
  obtain ⟨j, hwf, rfl⟩ := exists_encode_of_matchesRow h
  exact ⟨j, decode_encode hwf⟩

/-- Settles O4: two rows differ in a bit that both masks keep, what decodes is of the row of its constructor, and the fields
of a word of a row make an instruction that encodes to it. -/
theorem decoderFollowsOpcodeTable : Obligations.DecoderFollowsOpcodeTable := by
  refine ⟨fun a ha b hb w => eq_of_matchesRow ha hb, fun w i h => ?_, fun w ⟨a, _, hmatch⟩ => ?_⟩
  · obtain ⟨_, _, hmatch⟩ := isInstrOf_of_decode h
    exact ⟨hmatch, exists_row_in_opcodeTable i⟩
  · exact exists_decode_of_matchesRow hmatch

/-! ### The unknown words (R70) -/

/-- A word of no row is a word that does not decode. -/
theorem no_row_iff_decode_error (w : Word) :
    (∀ a ∈ opcodeTable, matchesRow a w = false) ↔ ∃ r, decode w = .error r := by
  constructor
  · intro hno
    cases hdec : decode w with
    | error r => exact ⟨r, rfl⟩
    | ok i =>
      obtain ⟨_, _, hmatch⟩ := isInstrOf_of_decode hdec
      obtain ⟨a, ha, hrow⟩ := exists_row_in_opcodeTable i
      have hsame : matchesRow a w = matchesRow i w := by rw [matchesRow, matchesRow, hrow]
      rw [← hsame, hno a ha] at hmatch
      cases hmatch
  · rintro ⟨r, hr⟩ a _
    by_contra hmatch
    obtain ⟨j, hj⟩ := exists_decode_of_matchesRow (Bool.eq_true_of_not_eq_false hmatch)
    rw [hr] at hj
    cases hj

theorem decodeGroup0_error_iff (w : Word) :
    (∃ r, decodeGroup0 w = .error r) ↔ w ≠ 0x0000#16 ∧ w ≠ 0x00E0#16 ∧ w ≠ 0x00EE#16 := by
  unfold decodeGroup0
  split_ifs with h1 h2 h3 <;> simp [*]

theorem decodeGroup5_error_iff (w : Word) : (∃ r, decodeGroup5 w = .error r) ↔ w.toNat % 16 ≠ 0 := by
  rw [decodeGroup5, nOf_eq]
  split_ifs with hn <;> simp [hn]

theorem decodeGroup8_error_iff (w : Word) :
    (∃ r, decodeGroup8 w = .error r) ↔ w.toNat % 16 ∈ [0x8, 0x9, 0xA, 0xB, 0xC, 0xD, 0xF] := by
  have hlt : w.toNat % 16 < 16 := Nat.mod_lt _ (by decide)
  rw [decodeGroup8, nOf_eq]
  generalize w.toNat % 16 = n at hlt
  interval_cases n <;> simp

theorem decodeGroup9_error_iff (w : Word) : (∃ r, decodeGroup9 w = .error r) ↔ w.toNat % 16 ≠ 0 := by
  rw [decodeGroup9, nOf_eq]
  split_ifs with hn <;> simp [hn]

theorem decodeGroupE_error_iff (w : Word) : (∃ r, decodeGroupE w = .error r) ↔ w.toNat % 256 ∉ [0x9E, 0xA1] := by
  simp only [decodeGroupE, nnOf_eq_iff, BitVec.toNat_ofNat]
  split_ifs <;> simp_all

theorem decodeGroupF_error_iff (w : Word) : (∃ r, decodeGroupF w = .error r) ↔
    w.toNat % 256 ∉ [0x07, 0x0A, 0x15, 0x18, 0x1E, 0x29, 0x33, 0x55, 0x65] := by
  simp only [decodeGroupF, nnOf_eq_iff, BitVec.toNat_ofNat]
  split_ifs <;> simp_all

/-- Decoding fails in a group with a second level alone, where that level fails (R64). -/
theorem decode_error_iff (w : Word) : (∃ r, decode w = .error r) ↔
    (w.toNat / 4096 = 0x0 ∧ w ≠ 0x0000#16 ∧ w ≠ 0x00E0#16 ∧ w ≠ 0x00EE#16) ∨
    (w.toNat / 4096 = 0x5 ∧ w.toNat % 16 ≠ 0) ∨
    (w.toNat / 4096 = 0x8 ∧ w.toNat % 16 ∈ [0x8, 0x9, 0xA, 0xB, 0xC, 0xD, 0xF]) ∨
    (w.toNat / 4096 = 0x9 ∧ w.toNat % 16 ≠ 0) ∨
    (w.toNat / 4096 = 0xE ∧ w.toNat % 256 ∉ [0x9E, 0xA1]) ∨
    (w.toNat / 4096 = 0xF ∧ w.toNat % 256 ∉ [0x07, 0x0A, 0x15, 0x18, 0x1E, 0x29, 0x33, 0x55, 0x65]) := by
  have hw := w.isLt
  unfold decode
  rw [groupOf_toNat]
  split
  case h_1 hg => simp [hg, decodeGroup0_error_iff]
  case h_6 hg => simp [hg, decodeGroup5_error_iff]
  case h_9 hg => simp [hg, decodeGroup8_error_iff]
  case h_10 hg => simp [hg, decodeGroup9_error_iff]
  case h_15 hg => simp [hg, decodeGroupE_error_iff]
  case h_16 =>
    simp only [imp_false] at *
    have hg : w.toNat / 4096 = 0xF := by omega
    simp [hg, decodeGroupF_error_iff]
  all_goals
    rename_i hg
    simp [hg]

/-- A cycle on an unknown word: nothing but the advance of PC and the timer step, with the word as the diagnostic (R70, R182). -/
theorem perform_cycle_of_unknown {s : State} {w : Word} {r : Reject} (e : Nat) (hfetch : fetch s = .ok w)
    (hdecode : decode w = .error r) : perform (.cycle e) s = (.okDiag w, timerStep e s.advance) := by
  simp only [perform, cycle, hfetch, execWord, hdecode, diagnostic]

/-- Settles O5: the words of no row are those that do not decode, and those are told group by group. -/
theorem unknownOpcodeIsNoOp : Obligations.UnknownOpcodeIsNoOp := by
  refine ⟨fun w => (no_row_iff_decode_error w).trans (decode_error_iff w), fun s e w hfetch hno => ?_⟩
  obtain ⟨r, hr⟩ := (no_row_iff_decode_error w).mp hno
  exact perform_cycle_of_unknown e hfetch hr

end Sys2Proof.Machine
end

section
/-! PROOFS. What an instruction that completes leaves (spec/10_state.md section 10): the inversion of each meaning that can stop,
and from it the parts that every instruction keeps. -/

namespace Sys2Proof.Machine

/-! ### How `RET`, `CALL` and the key instructions complete -/

/-- `RET` completes with the newest live entry in PC (R100). -/
theorem exec_ret_eq_next {s t : State} (h : exec .ret s = .next t) :
    ∃ k : Fin 16, s.sp.val = k.val + 1 ∧ t = State.setPc { s with sp := k.castSucc } (s.slot k) := by
  simp only [exec, execRet] at h
  split at h
  · cases h
  · rename_i w u hpop
    cases h
    obtain ⟨k, hsp, rfl, rfl⟩ := pop?_eq_some hpop
    exact ⟨k, hsp, rfl⟩

/-- `CALL` completes with PC in the slot that SP named (R103). -/
theorem exec_call_eq_next {s t : State} {nnn : Addr12} (h : exec (.call nnn) s = .next t) :
    ∃ hlt : s.sp.val < 16, t = State.setPc
      { s with stk := s.stk.set s.sp.val s.pc, sp := ⟨s.sp.val + 1, Nat.succ_lt_succ hlt⟩ } (addrImm nnn) := by
  simp only [exec, execCall] at h
  split at h
  · cases h
  · rename_i u hpush
    cases h
    obtain ⟨hlt, rfl⟩ := push?_eq_some hpush
    exact ⟨hlt, rfl⟩

/-- `LD Vx, K` takes a key or waits (R142). -/
theorem exec_ldVxK_eq_next {s t : State} {x : Reg} (h : exec (.ldVxK x) s = .next t) :
    (∃ k, s.firstKey? = some k ∧ t = s.writeV x (BitVec.ofNat 8 k.val)) ∨ (s.firstKey? = none ∧ t = s.rewind) := by
  cases hkey : s.firstKey? with
  | some k =>
    rw [exec_ldVxK_of_some x hkey] at h
    cases h
    exact .inl ⟨k, rfl, rfl⟩
  | none =>
    rw [exec_ldVxK_of_none x hkey] at h
    cases h
    exact .inr ⟨rfl, rfl⟩

/-- `SKP` completes on a key code, with the skip by that key (R140, R146). -/
theorem exec_skp_eq_next {s t : State} {x : Reg} (h : exec (.skp x) s = .next t) :
    ∃ k : Fin 16, k.val = (s.readV x).toNat ∧ t = s.skipIf (s.keyDown k) := by
  obtain ⟨hlt, rfl⟩ := guardKey_eq_next (k := fun k => s.skipIf (s.keyDown k)) h
  exact ⟨_, rfl, rfl⟩

/-- `SKNP` completes on a key code, with the skip by that key (R141, R146). -/
theorem exec_sknp_eq_next {s t : State} {x : Reg} (h : exec (.sknp x) s = .next t) :
    ∃ k : Fin 16, k.val = (s.readV x).toNat ∧ t = s.skipIf (!s.keyDown k) := by
  obtain ⟨hlt, rfl⟩ := guardKey_eq_next (k := fun k => s.skipIf (!s.keyDown k)) h
  exact ⟨_, rfl, rfl⟩

/-! ### Frames of the updates they make -/

section
variable {s t u : State} {touched : StatePart → Prop}

/-- Frames compose. -/
theorem KeepsAllBut.trans (hst : KeepsAllBut touched s t) (htu : KeepsAllBut touched t u) : KeepsAllBut touched s u := by
  intro p hp
  have first := hst p hp
  have second := htu p hp
  cases p <;> exact Eq.trans second first

/-- Popping the stack writes PC and SP. -/
theorem keepsAllBut_pop {sp : Fin 17} {w : Word} (hpc : touched .pc) (hsp : touched .sp) :
    KeepsAllBut touched s (State.setPc { s with sp := sp } w) := by
  intro p hp
  cases p with
  | pc => exact absurd hpc hp
  | sp => exact absurd hsp hp
  | _ => rfl

/-- Pushing on the stack writes PC, SP and the slot that SP named. -/
theorem keepsAllBut_push {sp : Fin 17} {w w' : Word} (hlt : s.sp.val < 16) (hpc : touched .pc) (hsp : touched .sp)
    (hslot : touched (.slot ⟨s.sp.val, hlt⟩)) :
    KeepsAllBut touched s (State.setPc { s with stk := s.stk.set s.sp.val w, sp := sp } w') := by
  intro p hp
  cases p with
  | pc => exact absurd hpc hp
  | sp => exact absurd hsp hp
  | slot k =>
    have hk : k.val ≠ s.sp.val := by
      rintro hk
      obtain rfl : k = ⟨s.sp.val, hlt⟩ := Fin.ext hk
      exact hp hslot
    exact (getElem_stk_set s.stk s.sp.val hlt w k).trans (if_neg hk)
  | _ => rfl

theorem rndTaken_of_cons {b : Byte} {bs : List Byte} (h : s.rndFeed = b :: bs) : s.rndTaken = { s with rndFeed := bs } := by
  simp only [State.rndTaken, h]

theorem rndTaken_of_nil (h : s.rndFeed = []) : s.rndTaken = { s with rndDraws := s.rndDraws + 1 } := by
  simp only [State.rndTaken, h]

/-- Taking a listed random byte writes the list. -/
theorem keepsAllBut_rndTaken_of_cons {b : Byte} {bs : List Byte} (h : s.rndFeed = b :: bs) (hfeed : touched .rndFeed) :
    KeepsAllBut touched s s.rndTaken := by
  rw [rndTaken_of_cons h]
  intro p hp
  cases p with
  | rndFeed => exact absurd hfeed hp
  | _ => rfl

/-- Taking a free random byte writes the count of draws. -/
theorem keepsAllBut_rndTaken_of_nil (h : s.rndFeed = []) (hdraws : touched .rndDraws) : KeepsAllBut touched s s.rndTaken := by
  rw [rndTaken_of_nil h]
  intro p hp
  cases p with
  | rndDraws => exact absurd hdraws hp
  | _ => rfl

theorem keepsAllBut_rndTaken (hfeed : touched .rndFeed) (hdraws : touched .rndDraws) : KeepsAllBut touched s s.rndTaken := by
  cases h : s.rndFeed with
  | cons b bs => exact keepsAllBut_rndTaken_of_cons h hfeed
  | nil => exact keepsAllBut_rndTaken_of_nil h hdraws

theorem keepsAllBut_setDt {b : Byte} (h : touched .dt) : KeepsAllBut touched s (s.setDt b) := by
  intro p hp
  cases p with
  | dt => exact absurd h hp
  | _ => rfl

theorem keepsAllBut_setSt {b : Byte} (h : touched .st) : KeepsAllBut touched s (s.setSt b) := by
  intro p hp
  cases p with
  | st => exact absurd h hp
  | _ => rfl

/-- Loading a block of registers writes those registers. -/
theorem keepsAllBut_loadFirstRegs {x : Reg} (h : ∀ k : Reg, k ≤ x → touched (.v k)) :
    KeepsAllBut touched s (s.loadFirstRegs x) := by
  refine keepsAllBut_of_v fun r hr => ?_
  have hread := readV_loadFirstRegs s x r
  rwa [if_neg fun hle => hr (h r hle)] at hread

/-- Storing a block of bytes keeps what is not memory, in whatever form the memory is. -/
theorem keepsAllBut_storeBytes_of_mem {a : Nat} {bs : List Byte} (h : ∀ c, touched (.mem c)) :
    KeepsAllBut touched s (s.storeBytes a bs) := by
  intro p hp
  cases p with
  | mem c => exact absurd (h c) hp
  | v r => exact readV_congr (storeBytes_v ..) r
  | slot k => exact slot_congr (storeBytes_stk ..) k
  | key k => exact keyDown_congr (storeBytes_key ..) k
  | _ => simp only [StatePart.same, storeBytes_i, storeBytes_pc, storeBytes_sp, storeBytes_fb, storeBytes_dt, storeBytes_st,
      storeBytes_rdrw, storeBytes_tacc, storeBytes_font, storeBytes_shiftUsesVy, storeBytes_tickInterval, storeBytes_pending,
      storeBytes_freeCycles, storeBytes_rndFeed, storeBytes_rndDraws]

/-- A block store inside memory keeps every byte outside the block of a memory in canonical form, and everything that is not
memory in any case. -/
theorem keepsAllBut_storeBlock {a len : Nat} {bs : List Byte} (hlen : bs.length = len) (hb : a + len ≤ Config.memSize)
    (hin : ∀ p : StatePart, p.isMemIn a len → touched p) (hmem : s.memWf = true ∨ ∀ c, touched (.mem c)) :
    KeepsAllBut touched s (s.storeBytes a bs) := by
  subst hlen
  rcases hmem with hwf | hall
  · exact keepsAllBut_storeBytes hwf hb fun c hlo hhi => hin _ ⟨c, rfl, hlo, hhi⟩
  · exact keepsAllBut_storeBytes_of_mem hall

/-! ### Every instruction -/

/-- An instruction that completes keeps every part that it may not write. Only the frame of memory needs its canonical form. -/
theorem exec_keepsAllBut {i : Instr} (h : exec i s = .next t) (hparts : ∀ p, mayWrite i s p → touched p)
    (hmem : s.memWf = true ∨ ∀ a, touched (.mem a)) : KeepsAllBut touched s t := by
  cases i with
  | cls =>
    cases h
    exact keepsAllBut_setDisplay (fun y x => hparts _ (.inl ⟨y, x, rfl⟩)) (hparts _ (.inr rfl))
  | ret =>
    obtain ⟨k, _, rfl⟩ := exec_ret_eq_next h
    exact keepsAllBut_pop (hparts _ (.inl rfl)) (hparts _ (.inr rfl))
  | call nnn =>
    obtain ⟨hlt, rfl⟩ := exec_call_eq_next h
    exact keepsAllBut_push hlt (hparts _ (.inl rfl)) (hparts _ (.inr (.inl rfl))) (hparts _ (.inr (.inr ⟨_, rfl, rfl⟩)))
  | halt | jp _ | jpV0 _ =>
    cases h
    exact keepsAllBut_setPc (hparts _ rfl)
  | seImm _ _ | sneImm _ _ | seReg _ _ | sneReg _ _ =>
    cases h
    exact keepsAllBut_skipIf (hparts _ rfl)
  | skp x =>
    obtain ⟨_, _, rfl⟩ := exec_skp_eq_next h
    exact keepsAllBut_skipIf (hparts _ rfl)
  | sknp x =>
    obtain ⟨_, _, rfl⟩ := exec_sknp_eq_next h
    exact keepsAllBut_skipIf (hparts _ rfl)
  | ldImm _ _ | addImm _ _ | ldReg _ _ | orReg _ _ | andReg _ _ | xorReg _ _ | ldVxDT _ =>
    cases h
    exact keepsAllBut_writeV (hparts _ rfl)
  | addReg _ _ | subReg _ _ | shr _ _ | subnReg _ _ | shl _ _ =>
    cases h
    exact keepsAllBut_writeVFlag (hparts _ (.inl rfl)) (hparts _ (.inr rfl))
  | rnd x nn =>
    cases h
    exact (keepsAllBut_rndTaken (hparts _ (.inr (.inl rfl))) (hparts _ (.inr (.inr rfl)))).trans
      (keepsAllBut_writeV (hparts _ (.inl rfl)))
  | drw x y n =>
    obtain ⟨_, rfl⟩ := guardBlock_eq_next h
    exact (keepsAllBut_setDisplay (fun y x => hparts _ (.inl ⟨y, x, rfl⟩)) (hparts _ (.inr (.inr rfl)))).trans
      (keepsAllBut_writeV (hparts _ (.inr (.inl rfl))))
  | ldVxK x =>
    rcases exec_ldVxK_eq_next h with ⟨k, _, rfl⟩ | ⟨_, rfl⟩
    · exact keepsAllBut_writeV (hparts _ (.inl rfl))
    · exact keepsAllBut_setPc (hparts _ (.inr rfl))
  | ldDTVx _ =>
    cases h
    exact keepsAllBut_setDt (hparts _ rfl)
  | ldSTVx _ =>
    cases h
    exact keepsAllBut_setSt (hparts _ rfl)
  | ldI _ | addI _ | ldF _ =>
    cases h
    exact keepsAllBut_setI (hparts _ rfl)
  | ldB x =>
    obtain ⟨hin, rfl⟩ := guardBlock_eq_next h
    exact keepsAllBut_storeBlock rfl (hin.resolve_left (by decide)) hparts hmem
  | storeRegs x =>
    obtain ⟨hin, rfl⟩ := guardBlock_eq_next h
    exact keepsAllBut_storeBlock (firstRegs_length s x) (hin.resolve_left (Nat.succ_ne_zero _)) hparts hmem
  | loadRegs x =>
    obtain ⟨_, rfl⟩ := guardBlock_eq_next h
    exact keepsAllBut_loadFirstRegs fun k hk => hparts _ ⟨k, hk, rfl⟩

/-- A part that is not memory and that the instruction may not write, in whatever form the memory is. -/
theorem exec_same {i : Instr} {p : StatePart} (h : exec i s = .next t) (hmem : ∀ a, p ≠ .mem a) (hp : ¬ mayWrite i s p) :
    p.same s t := by
  have hkeeps : KeepsAllBut (fun q => mayWrite i s q ∨ ∃ a, q = .mem a) s t :=
    exec_keepsAllBut h (fun _ => .inl) (.inr fun a => .inr ⟨a, rfl⟩)
  refine hkeeps p ?_
  rintro (hmay | ⟨a, rfl⟩)
  · exact hp hmay
  · exact hmem a rfl

end

/-- Settles O52: case by case, the frame of the update that the instruction makes. -/
theorem instructionsWriteOnlyTheirParts : Obligations.InstructionsWriteOnlyTheirParts :=
  fun _ _ _ hwf h => exec_keepsAllBut h (fun _ => id) (.inl hwf)

end Sys2Proof.Machine
end

section
/-! PROOFS. What a cycle keeps and where it leaves PC, the timers and memory (spec/10_state.md, spec/60_exceptions.md R185 to
R195, spec/20_memory.md R53). -/

namespace Sys2Proof.Machine

/-! ### Parts that no instruction writes -/

/-- The parts that no instruction may write: keys, accumulated time, parameters, and the model's own fields but the random
source (spec/10_state.md section 10). -/
def StatePart.outsideInstructions : StatePart → Bool
  | .key _ | .tacc | .font | .shiftUsesVy | .tickInterval | .pending | .freeCycles => true
  | .mem _ | .v _ | .i | .pc | .slot _ | .sp | .cell _ _ | .dt | .st | .rdrw | .rndFeed | .rndDraws => false

theorem not_mayWrite_of_outside {p : StatePart} (hp : p.outsideInstructions = true) (i : Instr) (s : State) :
    ¬ mayWrite i s p := by
  intro h
  cases i with
  | cls => rcases h with ⟨_, _, rfl⟩ | rfl <;> cases hp
  | drw _ _ _ => rcases h with ⟨_, _, rfl⟩ | rfl | rfl <;> cases hp
  | call _ => rcases h with rfl | rfl | ⟨_, _, rfl⟩ <;> cases hp
  | rnd _ _ => rcases h with rfl | rfl | rfl <;> cases hp
  | ret | addReg _ _ | subReg _ _ | shr _ _ | subnReg _ _ | shl _ _ | ldVxK _ => rcases h with rfl | rfl <;> cases hp
  | ldB _ | storeRegs _ =>
    obtain ⟨_, rfl, _⟩ := h
    cases hp
  | loadRegs _ =>
    obtain ⟨_, _, rfl⟩ := h
    cases hp
  | _ =>
    obtain rfl := h
    cases hp

theorem ne_mem_of_outside {p : StatePart} (hp : p.outsideInstructions = true) (a : Nat) : p ≠ .mem a := by
  rintro rfl
  cases hp

/-- Only `LD DT, Vx` writes DT (R21). -/
theorem not_mayWrite_dt {i : Instr} (s : State) (h : ∀ x, i ≠ .ldDTVx x) : ¬ mayWrite i s .dt := by
  cases i with
  | ldDTVx x => exact absurd rfl (h x)
  | _ => simp [mayWrite, StatePart.isCell, StatePart.isMemIn]

/-- Only `LD ST, Vx` writes ST (R21). -/
theorem not_mayWrite_st {i : Instr} (s : State) (h : ∀ x, i ≠ .ldSTVx x) : ¬ mayWrite i s .st := by
  cases i with
  | ldSTVx x => exact absurd rfl (h x)
  | _ => simp [mayWrite, StatePart.isCell, StatePart.isMemIn]

/-! ### The execution of a fetched word, and the whole cycle -/

theorem fetch_eq_wordAtPc {s : State} {w : Word} (h : fetch s = .ok w) : s.pc.toNat ≤ 0xFFE ∧ w = wordAtPc s := by
  obtain ⟨hpc, rfl⟩ := fetch_eq_ok h
  exact ⟨by omega, rfl⟩

theorem fetch_of_le {s : State} (h : s.pc.toNat ≤ 0xFFE) : fetch s = .ok (wordAtPc s) := fetch_in (by omega)

/-- A cycle that completes: PC was fetchable, the word at PC was executed on the advanced PC, and the timer step followed. -/
theorem exists_execWord_of_cycle {e : Nat} {s t : State} (h : cycle e s = .next t) :
    s.pc.toNat ≤ 0xFFE ∧ ∃ u, execWord (wordAtPc s) s.advance = .next u ∧ t = timerStep e u := by
  obtain ⟨w, u, hfetch, hexec, rfl⟩ := cycle_eq_next h
  obtain ⟨hpc, rfl⟩ := fetch_eq_wordAtPc hfetch
  exact ⟨hpc, u, hexec, rfl⟩

theorem execWord_of_decoded {w : Word} {i : Instr} {s : State} (h : decode w = .ok i) : execWord w s = exec i s := by
  simp only [execWord, h]

theorem execWord_of_unknown {w : Word} {r : Reject} {s : State} (h : decode w = .error r) : execWord w s = .next s := by
  simp only [execWord, h]

/-- A word keeps every part that the instruction it decodes to, if any, may not write. -/
theorem execWord_same {w : Word} {s u : State} {p : StatePart} (h : execWord w s = .next u) (hmem : ∀ a, p ≠ .mem a)
    (hp : ∀ i, decode w = .ok i → ¬ mayWrite i s p) : p.same s u := by
  rcases execWord_cases w s with ⟨i, hi, heq⟩ | ⟨r, _, heq⟩
  · rw [heq] at h
    exact exec_same h hmem (hp i hi)
  · rw [heq] at h
    cases h
    cases p <;> rfl

theorem execWord_same_of_outside {w : Word} {s u : State} {p : StatePart} (h : execWord w s = .next u)
    (hp : p.outsideInstructions = true) : p.same s u :=
  execWord_same h (ne_mem_of_outside hp) fun i _ => not_mayWrite_of_outside hp i s

/-- A cycle keeps the parts that no instruction writes, but for the accumulated time. -/
theorem cycle_same_of_outside {e : Nat} {s t : State} {p : StatePart} (h : cycle e s = .next t)
    (hp : p.outsideInstructions = true) (htacc : p ≠ .tacc) : p.same s t := by
  obtain ⟨_, u, hexec, rfl⟩ := exists_execWord_of_cycle h
  have hsame : p.same s.advance u := execWord_same_of_outside hexec hp
  cases p with
  | tacc => exact absurd rfl htacc
  | key _ | font | shiftUsesVy | tickInterval | pending | freeCycles => exact hsame
  | _ => cases hp

/-! ### The redraw flag (R22) -/

/-- Only `CLS` and `DRW` write the redraw flag, and both set it. -/
theorem exec_rdrw {i : Instr} {s t : State} (h : exec i s = .next t) :
    t.rdrw = s.rdrw ∨ (t.rdrw = true ∧ (i = .cls ∨ ∃ x y n, i = .drw x y n)) := by
  cases i with
  | cls =>
    cases h
    exact .inr ⟨rfl, .inl rfl⟩
  | drw x y n =>
    obtain ⟨_, rfl⟩ := guardBlock_eq_next h
    exact .inr ⟨rfl, .inr ⟨x, y, n, rfl⟩⟩
  | _ =>
    exact .inl (exec_same (p := .rdrw) h (by simp) (by simp [mayWrite, StatePart.isMemIn]))

/-- Settles O53: keys, parameters and pending operations are outside every instruction, and the redraw flag is written by the two
that set it. -/
theorem onlyHostWritesKeysAndClearsRedraw : Obligations.OnlyHostWritesKeysAndClearsRedraw := by
  intro s t e h
  have hrdrw : t.rdrw = s.rdrw ∨ (t.rdrw = true ∧
      (decode (wordAtPc s) = .ok .cls ∨ ∃ x y n, decode (wordAtPc s) = .ok (.drw x y n))) := by
    obtain ⟨_, u, hexec, rfl⟩ := exists_execWord_of_cycle h
    rcases execWord_cases (wordAtPc s) s.advance with ⟨i, hi, heq⟩ | ⟨_, _, heq⟩
    · rw [heq] at hexec
      rcases exec_rdrw hexec with hsame | ⟨hset, rfl | ⟨x, y, n, rfl⟩⟩
      · exact .inl hsame
      · exact .inr ⟨hset, .inl hi⟩
      · exact .inr ⟨hset, .inr ⟨x, y, n, hi⟩⟩
    · rw [heq] at hexec
      cases hexec
      exact .inl rfl
  refine ⟨fun k => cycle_same_of_outside (p := .key k) h rfl (by simp), fun hset => ?_, fun hunset hset => ?_,
    cycle_same_of_outside (p := .font) h rfl (by simp), cycle_same_of_outside (p := .shiftUsesVy) h rfl (by simp),
    cycle_same_of_outside (p := .tickInterval) h rfl (by simp), cycle_same_of_outside (p := .pending) h rfl (by simp)⟩
  · rcases hrdrw with hsame | ⟨hnow, _⟩
    · rw [hsame, hset]
    · exact hnow
  · rcases hrdrw with hsame | ⟨_, hinstr⟩
    · rw [hsame, hunset] at hset
      cases hset
    · exact hinstr

/-! ### The timers (R185 to R190) -/

/-- The timer step of a cycle, in terms of the state before the cycle: no instruction writes TACC or the interval. -/
theorem timerStep_after_execWord {w : Word} {e : Nat} {s u : State} (h : execWord w s.advance = .next u) :
    (timerStep e u).tacc = (s.tacc + e) % s.tickInterval ∧
    (timerStep e u).dt.toNat = u.dt.toNat - (s.tacc + e) / s.tickInterval ∧
    (timerStep e u).st.toNat = u.st.toNat - (s.tacc + e) / s.tickInterval := by
  have htacc : u.tacc = s.tacc := execWord_same_of_outside (s := s.advance) (p := .tacc) h rfl
  have hinterval : u.tickInterval = s.tickInterval := execWord_same_of_outside (s := s.advance) (p := .tickInterval) h rfl
  refine ⟨?_, ?_, ?_⟩
  · rw [timerStep_tacc, htacc, hinterval]
  · rw [timerStep_dt, ticks_toNat, State.dueTicks, htacc, hinterval]
  · rw [timerStep_st, ticks_toNat, State.dueTicks, htacc, hinterval]

/-- Settles O16: the timer step runs on the state after the instruction, which holds the old timers but for the two loads. -/
theorem timerStepFollowsInstruction : Obligations.TimerStepFollowsInstruction := by
  intro s t e h
  obtain ⟨_, u, hexec, rfl⟩ := exists_execWord_of_cycle h
  obtain ⟨htacc, hdt, hst⟩ := timerStep_after_execWord (e := e) hexec
  refine ⟨htacc, fun hne => ?_, fun x hx => ?_, fun hne => ?_, fun x hx => ?_, fun x hx => ?_⟩
  · have hkept : u.dt = s.dt := execWord_same (s := s.advance) (p := .dt) hexec (by simp) fun i hi =>
      not_mayWrite_dt _ fun x hx => hne x (hx ▸ hi)
    rw [hdt, hkept]
  · rw [execWord_of_decoded hx] at hexec
    cases hexec
    exact hdt
  · have hkept : u.st = s.st := execWord_same (s := s.advance) (p := .st) hexec (by simp) fun i hi =>
      not_mayWrite_st _ fun x hx => hne x (hx ▸ hi)
    rw [hst, hkept]
  · rw [execWord_of_decoded hx] at hexec
    cases hexec
    exact hst
  · rw [execWord_of_decoded hx] at hexec
    cases hexec
    exact readV_writeV_same s.advance x s.dt

/-! ### PC (R16) -/

theorem addrImm_eq_ofNat (nnn : Addr12) : addrImm nnn = BitVec.ofNat 16 nnn.toNat :=
  BitVec.eq_of_toNat_eq (by rw [toNat_addrImm, BitVec.toNat_ofNat, Nat.mod_eq_of_lt (by omega)])

theorem addrImm_add_byteWord_eq_ofNat (nnn : Addr12) (b : Byte) :
    addrImm nnn + byteWord b = BitVec.ofNat 16 (nnn.toNat + b.toNat) :=
  BitVec.eq_of_toNat_eq (by rw [toNat_addrImm_add_byteWord, BitVec.toNat_ofNat, Nat.mod_eq_of_lt (by omega)])

/-- PC after a skip on the advanced PC, from the state before the cycle (R16, R108). -/
theorem skipIf_advance_pc (s : State) (c : Bool) :
    (s.advance.skipIf c).pc = if c = true then s.pc + 4#16 else s.pc + 2#16 := by
  rw [skipIf_pc, advance_pc, BitVec.add_assoc]
  rfl

/-- The key that `SKP` and `SKNP` test is the one whose code is the byte. -/
theorem keyDown_iff_exists (s : State) (k : Fin 16) {n : Nat} (hk : k.val = n) :
    s.keyDown k = true ↔ ∃ j : Fin 16, j.val = n ∧ s.keyDown j = true := by
  constructor
  · exact fun h => ⟨k, hk, h⟩
  · rintro ⟨j, hj, hdown⟩
    rwa [show k = j from Fin.ext (hk.trans hj.symm)]

/-- Where an instruction that completes leaves PC, from the state before the cycle (the table of R16). -/
theorem exec_pc {i : Instr} {s t : State} (h : exec i s.advance = .next t) : t.pc = pcAfterInstr i s := by
  cases i with
  | jp nnn =>
    cases h
    exact addrImm_eq_ofNat nnn
  | call nnn =>
    obtain ⟨_, rfl⟩ := exec_call_eq_next h
    exact addrImm_eq_ofNat nnn
  | jpV0 nnn =>
    cases h
    exact addrImm_add_byteWord_eq_ofNat nnn (s.readV 0)
  | ret =>
    obtain ⟨k, hsp, rfl⟩ := exec_ret_eq_next h
    rw [advance_sp] at hsp
    simp [pcAfterInstr, hsp, State.slot]
  | halt =>
    cases h
    exact pc0_advance s
  | ldVxK x =>
    rcases exec_ldVxK_eq_next h with ⟨k, hkey, rfl⟩ | ⟨hkey, rfl⟩
    · obtain ⟨hdown, _⟩ := firstKey?_eq_some hkey
      exact (if_pos ⟨k, hdown⟩).symm
    · have hup := firstKey?_eq_none.mp hkey
      rw [pcAfterInstr, if_neg]
      · exact pc0_advance s
      · rintro ⟨k, hdown⟩
        exact Bool.false_ne_true ((hup k).symm.trans hdown)
  | seImm x nn =>
    cases h
    simp only [skipIf_advance_pc, beq_iff_eq]
    rfl
  | sneImm x nn =>
    cases h
    simp only [skipIf_advance_pc, bne_iff_ne, ne_eq, ite_not]
    rfl
  | seReg x y =>
    cases h
    simp only [skipIf_advance_pc, beq_iff_eq]
    rfl
  | sneReg x y =>
    cases h
    simp only [skipIf_advance_pc, bne_iff_ne, ne_eq, ite_not]
    rfl
  | skp x =>
    obtain ⟨k, hk, rfl⟩ := exec_skp_eq_next h
    rw [skipIf_advance_pc]
    exact if_congr (keyDown_iff_exists s k hk) rfl rfl
  | sknp x =>
    obtain ⟨k, hk, rfl⟩ := exec_sknp_eq_next h
    simp only [skipIf_advance_pc, Bool.not_eq_true', ← Bool.not_eq_true, ite_not]
    exact if_congr (keyDown_iff_exists s k hk) rfl rfl
  | _ =>
    exact exec_same (p := .pc) h (by simp) (by simp [mayWrite, StatePart.isCell, StatePart.isMemIn])

/-- A cycle that faults hands the state back as it was (R171). -/
theorem perform_cycle_eq_fault {e : Nat} {s t : State} {f : Fault} (h : perform (.cycle e) s = (.fault f, t)) :
    cycle e s = .fault f ∧ t = s := by
  simp only [perform] at h
  split at h
  · split at h <;> cases h
  · rename_i hcycle
    cases h
    exact ⟨hcycle, rfl⟩
  · cases h

/-- Settles O14: the table of R16 row by row for what completes, and the unchanged state for what faults. -/
theorem cycleLeavesPcAsTabled : Obligations.CycleLeavesPcAsTabled := by
  refine ⟨fun s t e h => ?_, fun s t e f h => ?_⟩
  · obtain ⟨_, u, hexec, rfl⟩ := exists_execWord_of_cycle h
    refine ⟨fun i hi => ?_, fun r hr => ?_⟩
    · rw [execWord_of_decoded hi] at hexec
      rw [timerStep_pc, exec_pc hexec]
    · rw [execWord_of_unknown hr] at hexec
      cases hexec
      rfl
  · rw [(perform_cycle_eq_fault h).2]

end Sys2Proof.Machine
end

section
/-! PROOFS. Memory and the instructions that reach it (spec/20_memory.md R41, R42, R53, spec/43_index_memory.md R151 to R156). -/

namespace Sys2Proof.Machine

/-! ### One byte, and a block -/

theorem memWrite_of_le {s : State} {a : Nat} (b : Byte) (h : a ≤ 0xFFF) : s.memWrite a b = .ok (s.storeByte a b) :=
  if_pos h

theorem memWrite_of_lt {s : State} {a : Nat} (b : Byte) (h : 0xFFF < a) : s.memWrite a b = .error a :=
  if_neg (Nat.not_le.mpr h)

/-- The test of a block passes exactly when each of its bytes is in memory (R154). -/
theorem blockFault_eq_none_iff_forall {a len : Nat} : blockFault a len = none ↔ ∀ k, k < len → a + k ≤ 0xFFF := by
  rw [blockFault_eq_none]
  constructor
  · intro h k hk
    omega
  · intro h
    by_contra hout
    have hlast := h (len - 1) (by omega)
    omega

/-- The address reported is the first of the block that is out of memory (R154, R174). -/
theorem blockFault_eq_some_iff_first {a len c : Nat} : blockFault a len = some c ↔
    (a ≤ c ∧ c < a + len ∧ 0xFFF < c ∧ ∀ d, a ≤ d → d < c → d ≤ 0xFFF) := by
  rw [blockFault_eq_some]
  constructor
  · rintro ⟨hlen, hout, rfl⟩
    refine ⟨?_, ?_, ?_, fun d _ hd => ?_⟩ <;> omega
  · rintro ⟨hle, hlt, hout, hfirst⟩
    have hlow := hfirst (max a 0x1000) (le_max_left _ _)
    omega

theorem KeepsAllBut.refl {touched : StatePart → Prop} (s : State) : KeepsAllBut touched s s := by
  intro p _
  cases p <;> rfl

/-- States that read the same bytes read the same blocks. -/
theorem bytesFrom_congr {s t : State} (h : ∀ a, t.byteAt a = s.byteAt a) (a n : Nat) : t.bytesFrom a n = s.bytesFrom a n := by
  induction n generalizing a with
  | zero => rfl
  | succ n ih => rw [State.bytesFrom, State.bytesFrom, h, ih]

theorem storeByte_eq_storeBytes (s : State) (a : Nat) (b : Byte) : s.storeByte a b = s.storeBytes a [b] := rfl

/-- A block that passes the test is stored byte by byte. -/
theorem byteAt_storeBytes_add {s : State} (hwf : s.memWf = true) {a k : Nat} {bs : List Byte}
    (hin : a + bs.length ≤ 0x1000) (hk : k < bs.length) : (s.storeBytes a bs).byteAt (a + k) = bs.getD k 0#8 := by
  rw [byteAt_storeBytes hwf hin, if_pos (by omega), Nat.add_sub_cancel_left]

/-- Settles O9: each clause is the rule of its primitive; an empty block is in memory wherever it stands. -/
theorem memoryAccessIsBounded : Obligations.MemoryAccessIsBounded := by
  intro s a b hwf
  refine ⟨fun hin => ?inside, fun hout => ?outside, fun len => blockFault_eq_none_iff_forall,
    fun len c => blockFault_eq_some_iff_first, fun bs hbs => ?block⟩
  case inside =>
    refine ⟨memRead_of_le hin, memWrite_of_le b hin, blockFault_eq_none.mpr (by omega), ?_, ?_⟩
    · rw [byteAt_storeByte hwf, if_pos rfl]
    · rw [storeByte_eq_storeBytes]
      refine keepsAllBut_storeBytes hwf (by simp; omega) fun c hlo hhi => ?_
      rw [List.length_singleton] at hhi
      rw [show c = a by omega]
  case outside => exact ⟨memRead_of_lt hout, memWrite_of_lt b hout, blockFault_eq_some.mpr (by omega)⟩
  case block =>
    rcases blockFault_eq_none.mp hbs with hempty | hin
    · obtain rfl := List.length_eq_zero_iff.mp hempty
      exact ⟨fun k hk => absurd hk (Nat.not_lt_zero k), KeepsAllBut.refl s⟩
    · exact ⟨fun k hk => byteAt_storeBytes_add hwf hin hk,
        keepsAllBut_storeBytes hwf hin fun c hlo hhi => ⟨c, rfl, hlo, hhi⟩⟩

/-! ### The guard of a block, and the word of an instruction -/

theorem guardBlock_of_in {len : Nat} {acc : Access} {i : Instr} {s k : State} (h : len = 0 ∨ s.i.toNat + len ≤ 0x1000) :
    guardBlock len acc i s k = .next k := by
  rcases guardBlock_cases len acc i s k with ⟨_, heq⟩ | ⟨hout, _⟩
  · exact heq
  · omega

theorem guardBlock_of_out {len : Nat} {acc : Access} {i : Instr} {s k : State} (hlen : len ≠ 0)
    (hout : 0x1000 < s.i.toNat + len) : guardBlock len acc i s k =
      .fault (.memoryOutOfBounds s.pc0 (some (encode i)) (max s.i.toNat 0x1000) acc) := by
  rcases guardBlock_cases len acc i s k with ⟨hin, _⟩ | ⟨_, heq⟩
  · omega
  · exact heq

theorem encode_of_decode {w : Word} {i : Instr} (h : decode w = .ok i) : encode i = w := by
  obtain ⟨_, henc, _⟩ := isInstrOf_of_decode h
  exact henc

/-! ### The index register -/

/-- Settles O37: the one write is of `I`, and 16 bits hold the sum modulo 65536. -/
theorem addIndexWritesNoFlag : Obligations.AddIndexWritesNoFlag := fun x _ =>
  ⟨decode_addI x, _, rfl, BitVec.toNat_ofNat _ _, keepsAllBut_setI rfl⟩

/-! ### Decimal digits (R153) -/

theorem toNat_ofNat_of_le_byte (b : Byte) {n : Nat} (h : n ≤ b.toNat) : (BitVec.ofNat 8 n).toNat = n :=
  (BitVec.toNat_ofNat _ _).trans (Nat.mod_eq_of_lt (by omega))

/-- Settles O38: the three digits are the block stored at `I`, and each fits a byte. -/
theorem bcdStoresThreeDigits : Obligations.BcdStoresThreeDigits := by
  intro x s hwf
  refine ⟨decode_ldB x, fun hin => ?completes, fun hout => ?faults⟩
  case completes =>
    have hblock : s.indexed 0 + (bcdDigits (s.readV x)).length ≤ 0x1000 := by
      simp only [State.indexed, bcdDigits, List.length_cons, List.length_nil]
      omega
    have hdigit (k : Nat) (hk : k < 3) : (s.storeBytes (s.indexed 0) (bcdDigits (s.readV x))).byteAt (s.indexed k) =
        (bcdDigits (s.readV x)).getD k 0#8 := byteAt_storeBytes_add hwf hblock hk
    refine ⟨_, guardBlock_of_in (.inr (by omega)), ?_, ?_, ?_, keepsAllBut_storeBytes hwf hblock fun c hlo hhi => ?_⟩
    · rw [hdigit 0 (by decide)]
      exact toNat_ofNat_of_le_byte (s.readV x) (by omega)
    · rw [hdigit 1 (by decide)]
      exact toNat_ofNat_of_le_byte (s.readV x) (by omega)
    · rw [hdigit 2 (by decide)]
      exact toNat_ofNat_of_le_byte (s.readV x) (by omega)
    · exact ⟨c, rfl, hlo, hhi⟩
  case faults =>
    rw [← encode_of_decode (decode_ldB x)]
    exact guardBlock_of_out (by decide) (by omega)

/-! ### Blocks of registers (R155, R156) -/

@[simp] theorem storeBytes_indexed (s : State) (a k : Nat) (bs : List Byte) : (s.storeBytes a bs).indexed k = s.indexed k := by
  rw [State.indexed, State.indexed, storeBytes_i]

/-- A register stored by a block is at its place in the block. -/
theorem byteAt_storeFirstRegs {s : State} (hwf : s.memWf = true) {x k : Reg} (hin : s.i.toNat + (x.val + 1) ≤ 0x1000)
    (hk : k ≤ x) : (s.storeBytes (s.indexed 0) (s.firstRegs x)).byteAt (s.indexed k.val) = s.readV k := by
  have hread := byteAt_storeBytes_add (k := k.val) hwf (a := s.indexed 0) (bs := s.firstRegs x)
    (by rw [firstRegs_length]; exact hin) (by rw [firstRegs_length]; exact Nat.lt_succ_of_le hk)
  rwa [firstRegs_getD s x k hk] at hread

/-- Settles O39: the registers are the block stored at `I`. -/
theorem storeBlockWritesRegisters : Obligations.StoreBlockWritesRegisters := by
  intro x s hwf
  refine ⟨decode_storeRegs x, fun hin => ?completes, fun hout => ?faults⟩
  case completes =>
    refine ⟨_, guardBlock_of_in (.inr (by omega)), fun k hk => byteAt_storeFirstRegs hwf (by omega) hk, ?_⟩
    exact keepsAllBut_storeBlock (firstRegs_length s x) (by simp [State.indexed]; omega) (fun _ => id) (.inl hwf)
  case faults =>
    rw [← encode_of_decode (decode_storeRegs x)]
    exact guardBlock_of_out (Nat.succ_ne_zero _) (by omega)

/-- Settles O40: the registers up to `Vx` are the ones loaded. -/
theorem loadBlockReadsMemory : Obligations.LoadBlockReadsMemory := by
  intro x s
  refine ⟨decode_loadRegs x, fun hin => ?completes, fun hout => ?faults⟩
  case completes =>
    refine ⟨s.loadFirstRegs x, guardBlock_of_in (.inr (by omega)), fun k hk => ?_,
      keepsAllBut_loadFirstRegs fun k hk => ⟨k, hk, rfl⟩⟩
    rw [readV_loadFirstRegs, if_pos hk]
  case faults =>
    rw [← encode_of_decode (decode_loadRegs x)]
    exact guardBlock_of_out (Nat.succ_ne_zero _) (by omega)

/-- Settles O41: the store leaves `I`, so the load reads the block that was stored. -/
theorem storeThenLoadRestoresRegisters : Obligations.StoreThenLoadRestoresRegisters := by
  intro x s t v' hwf h
  obtain ⟨hin, rfl⟩ := guardBlock_eq_next h
  replace hin : s.i.toNat + (x.val + 1) ≤ 0x1000 := hin.resolve_left (Nat.succ_ne_zero _)
  obtain ⟨_, hload, _⟩ := loadBlockReadsMemory x { s.storeBytes (s.indexed 0) (s.firstRegs x) with v := v' }
  obtain ⟨u, hexec, hregs, hkeeps⟩ := hload (by simp only [storeBytes_i]; omega)
  refine ⟨u, hexec, fun k hk => ?_, hkeeps⟩
  calc u.readV k
    _ = (s.storeBytes (s.indexed 0) (s.firstRegs x)).byteAt
          ((s.storeBytes (s.indexed 0) (s.firstRegs x)).indexed k.val) := hregs k hk
    _ = (s.storeBytes (s.indexed 0) (s.firstRegs x)).byteAt (s.indexed k.val) := by
          rw [storeBytes_indexed]
    _ = s.readV k := byteAt_storeFirstRegs hwf hin hk

/-! ### Memory after any instruction -/

/-- The digits that `LD B, Vx` stores are a block at `I`. -/
theorem storedByte_ldB (x : Reg) (s : State) (a : Nat) : storedByte (.ldB x) s a =
    if s.indexed 0 ≤ a ∧ a < s.indexed 0 + 3 then some ((bcdDigits (s.readV x)).getD (a - s.indexed 0) 0#8) else none := by
  by_cases hin : s.indexed 0 ≤ a ∧ a < s.indexed 0 + 3
  · obtain ⟨d, hd, rfl⟩ : ∃ d, d < 3 ∧ a = s.indexed 0 + d := ⟨a - s.indexed 0, by omega, by omega⟩
    interval_cases d <;> simp [storedByte, State.indexed, bcdDigits]
  · rw [if_neg hin]
    simp only [State.indexed] at hin
    rw [storedByte, if_neg (by omega), if_neg (by omega), if_neg (by omega)]

/-- The registers that `LD [I], Vx` stores are a block at `I`. -/
theorem storedByte_storeRegs (x : Reg) (s : State) (a : Nat) : storedByte (.storeRegs x) s a =
    if s.indexed 0 ≤ a ∧ a < s.indexed 0 + (x.val + 1) then some ((s.firstRegs x).getD (a - s.indexed 0) 0#8) else none := by
  simp only [storedByte, State.indexed, Nat.add_zero]
  refine ite_congr (propext (by omega)) (fun hin => ?_) fun _ => rfl
  have hlt : a - s.i.toNat < 16 := by omega
  have hreg := firstRegs_getD s x ⟨a - s.i.toNat, hlt⟩ (Fin.mk_le_of_le_val (by omega))
  rw [hreg, Vector.getElem?_toList, Vector.getElem?_eq_getElem hlt]
  rfl

/-- Memory after an instruction that completes: what the instruction stored, and the byte of before elsewhere. -/
theorem exec_byteAt {i : Instr} {s t : State} (hwf : s.memWf = true) (h : exec i s = .next t) (a : Nat) :
    t.byteAt a = (storedByte i s a).getD (s.byteAt a) := by
  cases i with
  | ldB x =>
    obtain ⟨hin, rfl⟩ := guardBlock_eq_next h
    rw [byteAt_storeBytes hwf (hin.resolve_left (by decide)), storedByte_ldB, apply_ite (Option.getD · _)]
    rfl
  | storeRegs x =>
    obtain ⟨hin, rfl⟩ := guardBlock_eq_next h
    have hblock : s.indexed 0 + (s.firstRegs x).length ≤ 0x1000 := by
      rw [firstRegs_length]
      exact hin.resolve_left (Nat.succ_ne_zero _)
    rw [byteAt_storeBytes hwf hblock, firstRegs_length, storedByte_storeRegs, apply_ite (Option.getD · _)]
    rfl
  | _ =>
    exact exec_keepsAllBut h (fun _ => id) (.inl hwf) (.mem a) (by simp [mayWrite, StatePart.isCell])

/-- Settles O42: the fetch reads the two bytes that the instruction left at the new PC. -/
theorem storeIsSeenByNextFetch : Obligations.StoreIsSeenByNextFetch := by
  intro i s t e hwf h hdecode hpc
  obtain ⟨_, u, hexec, rfl⟩ := exists_execWord_of_cycle h
  rw [execWord_of_decoded hdecode] at hexec
  have hbyte (a : Nat) : (timerStep e u).byteAt a = (storedByte i s a).getD (s.byteAt a) :=
    exec_byteAt (s := s.advance) hwf hexec a
  rw [fetch_of_le hpc, wordAtPc, hbyte, hbyte]

/-! ### The canonical form (log entry 8) -/

/-- An instruction other than the two stores leaves the list of memory as it is. -/
theorem exec_mem_eq {i : Instr} {s t : State} (h : exec i s = .next t) (hB : ∀ x, i ≠ .ldB x) (hS : ∀ x, i ≠ .storeRegs x) :
    t.mem = s.mem := by
  cases i with
  | ldB x => exact absurd rfl (hB x)
  | storeRegs x => exact absurd rfl (hS x)
  | ret =>
    obtain ⟨_, _, rfl⟩ := exec_ret_eq_next h
    rfl
  | call nnn =>
    obtain ⟨_, rfl⟩ := exec_call_eq_next h
    rfl
  | ldVxK x => rcases exec_ldVxK_eq_next h with ⟨_, _, rfl⟩ | ⟨_, rfl⟩ <;> rfl
  | skp x =>
    obtain ⟨_, _, rfl⟩ := exec_skp_eq_next h
    exact skipIf_mem ..
  | sknp x =>
    obtain ⟨_, _, rfl⟩ := exec_sknp_eq_next h
    exact skipIf_mem ..
  | seImm _ _ | sneImm _ _ | seReg _ _ | sneReg _ _ =>
    cases h
    exact skipIf_mem ..
  | rnd x nn =>
    cases h
    exact rndTaken_mem s
  | drw _ _ _ | loadRegs _ =>
    obtain ⟨_, rfl⟩ := guardBlock_eq_next h
    rfl
  | _ =>
    cases h
    rfl

/-- An instruction keeps the canonical form of memory. -/
theorem exec_memWf {i : Instr} {s t : State} (hwf : s.memWf = true) (h : exec i s = .next t) : t.memWf = true := by
  have hother (hB : ∀ x, i ≠ .ldB x) (hS : ∀ x, i ≠ .storeRegs x) : t.memWf = true := by
    have hfont : t.font = s.font := exec_same (p := .font) h (by simp) (not_mayWrite_of_outside rfl i s)
    rw [State.memWf, exec_mem_eq h hB hS, hfont]
    exact hwf
  cases i with
  | ldB x =>
    obtain ⟨hin, rfl⟩ := guardBlock_eq_next h
    exact storeBytes_wf hwf (hin.resolve_left (by decide))
  | storeRegs x =>
    obtain ⟨hin, rfl⟩ := guardBlock_eq_next h
    refine storeBytes_wf hwf ?_
    rw [firstRegs_length]
    exact hin.resolve_left (Nat.succ_ne_zero _)
  | _ => exact hother (by simp) (by simp)

end Sys2Proof.Machine
end

section
/-! PROOFS. The operations of the host, the step, the parameters and the invariant (spec/00_scope.md R3, R4,
spec/70_reset_and_hazards.md R210, R211, spec/10_state.md R15 to R27). -/

namespace Sys2Proof.Machine

/-! ### Power-on and reset (R27, R45, R210, R211) -/

/-- Settles O46: memory lists nothing, so every byte is the font's or 0; the rest is the literal state. -/
theorem resetStateAsListed : Obligations.ResetStateAsListed := by
  refine ⟨by decide, by decide, fun a ha => Memory.unlisted_zero ha, by decide, rfl, rfl, rfl, rfl, rfl, cellAt_blank, by decide,
    rfl, rfl, rfl⟩

/-- Settles O47: the new state is the one after reset, but for the parts that it copies from the old one. -/
theorem powerOnSetsEverything : Obligations.PowerOnSetsEverything := by
  intro s
  refine ⟨powerOn s, rfl, fun a ha => Memory.unlisted_font ha, fun a ha => Memory.unlisted_zero ha, ?reset, ?kept⟩
  case reset =>
    intro p hmem hfont hshift hinterval hpending hcycles hfeed hdraws
    cases p with
    | mem a => exact absurd rfl (hmem a)
    | font => exact absurd rfl hfont
    | shiftUsesVy => exact absurd rfl hshift
    | tickInterval => exact absurd rfl hinterval
    | pending => exact absurd rfl hpending
    | freeCycles => exact absurd rfl hcycles
    | rndFeed => exact absurd rfl hfeed
    | rndDraws => exact absurd rfl hdraws
    | _ => rfl
  case kept => rintro p (rfl | rfl | rfl | rfl | rfl | rfl | rfl) <;> rfl

/-- Settles O48: `reset()` differs from `power_on` in the listed memory alone. -/
theorem resetKeepsProgramWindow : Obligations.ResetKeepsProgramWindow := by
  intro s hwf
  refine ⟨resetOp s, powerOn s, rfl, rfl, fun a ha => ?window, fun p hp => ?frame⟩
  case window => rw [byteAt_resetOp hwf, if_pos ha]
  case frame =>
    cases p with
    | mem a =>
      have hlow : ¬ Config.progBase ≤ a := fun ha => hp ⟨a, ha, rfl⟩
      exact (byteAt_resetOp hwf a).trans (if_neg hlow)
    | _ => rfl

/-- Below the program window nothing is listed after `reset()`, whatever was listed before. -/
theorem Memory.get_keepWindow_of_lt {f : Config.Font} {a : Nat} (ha : a < Config.progBase) (m : Memory) :
    m.keepWindow.get f a = Memory.unlisted f a := by
  induction m with
  | nil => rfl
  | cons c m ih =>
    obtain ⟨k, b⟩ := c
    unfold Memory.keepWindow at ih ⊢
    rw [List.filter_cons]
    split
    · rename_i hk
      exact if_pos (lt_of_lt_of_le ha (of_decide_eq_true hk))
    · exact ih

/-- Both operations put the font of the state at 0x000 (R45). -/
theorem byteAt_font_of_installed {s : State} {op : HostOp} (hop : op = .powerOn ∨ op = .reset) {a : Nat} (ha : a < 80) :
    ∃ t, perform op s = (.done, t) ∧ t.font = s.font ∧ t.byteAt a = s.font[a] := by
  rcases hop with rfl | rfl
  · exact ⟨powerOn s, rfl, rfl, Memory.unlisted_font ha⟩
  · have hbyte : (resetOp s).byteAt a = Memory.unlisted s.font a :=
      Memory.get_keepWindow_of_lt (lt_trans ha (by decide)) s.mem
    exact ⟨resetOp s, rfl, rfl, hbyte.trans (Memory.unlisted_font ha)⟩

/-- Settles O58: the glyph of a digit is five bytes of the font, and `LD F` leads to its first. -/
theorem fontIsInstalled : Obligations.FontIsInstalled := by
  intro s op d r x hop
  have ha : d.val * 5 + r.val < 80 := by omega
  obtain ⟨t, hperform, hfont, hbyte⟩ := byteAt_font_of_installed (s := s) hop ha
  have hglyph : some (t.byteAt (d.val * 5 + r.val)) = s.font[d.val * 5 + r.val]? := by
    rw [hbyte, Vector.getElem?_eq_getElem ha]
  refine ⟨t, _, hperform, hfont, hglyph, rfl, ?_⟩
  rw [← hglyph, readV_writeV_same, setI_i, toNat_glyphAddress, toNat_keyByte]
  rfl

/-! ### Program load, keys and the redraw flag (R52, R192 to R195) -/

/-- Settles O49: a program that is not too large is a block inside memory. -/
theorem loadProgramWritesWindow : Obligations.LoadProgramWritesWindow := by
  intro bytes s hwf
  refine ⟨fun hfits => ?fits, fun hlarge => ?large⟩
  case fits =>
    have hin : Config.progBase + bytes.length ≤ 0x1000 := by
      simp only [Config.progBase]
      omega
    refine ⟨s.storeBytes Config.progBase bytes, ?_, fun k hk => byteAt_storeBytes_add hwf hin hk,
      keepsAllBut_storeBlock rfl hin (fun _ => id) (.inl hwf)⟩
    rw [perform, loadProgram, if_pos hfits]
  case large => rw [perform, loadProgram, if_neg (Nat.not_le.mpr hlarge)]

theorem setKey_of_lt {code : Nat} (h : code < 16) (pressed : Bool) (s : State) :
    setKey code pressed s = (.done, { s with key := s.key.set code pressed }) := dif_pos h

theorem setKey_of_le {code : Nat} (h : 16 ≤ code) (pressed : Bool) (s : State) :
    setKey code pressed s = (.badKeyCode, s) := dif_neg (Nat.not_lt.mpr h)

/-- Settles O50: one flag is set, and the others are read where they were. -/
theorem keyAndRedrawOperations : Obligations.KeyAndRedrawOperations := by
  intro s
  refine ⟨fun k b => ⟨_, setKey_of_lt k.isLt b s, Vector.getElem_set_self _, fun p hp => ?frame⟩,
    fun code b hcode => setKey_of_le hcode b s, rfl, ⟨ackRedraw s, rfl, rfl, fun p hp => ?redraw⟩⟩
  case frame =>
    cases p with
    | key j =>
      have hne : k.val ≠ j.val := fun h => hp (congrArg StatePart.key (Fin.ext h.symm))
      exact Vector.getElem_set_ne k.isLt j.isLt hne
    | _ => rfl
  case redraw =>
    cases p with
    | rdrw => exact absurd rfl hp
    | _ => rfl

/-! ### The step -/

/-- Settles O7: the operation that comes next is the first pending one. -/
theorem stepPerformsPendingOperation : Obligations.StepPerformsPendingOperation := by
  intro s op ops hpending hne
  have hnext : nextOp s = (op, { s with pending := ops }) := by simp only [nextOp, hpending]
  cases op with
  | cycle e => exact absurd rfl (hne e)
  | _ => simp only [step, stepOp, hnext]

theorem decode_of_decodeBytes {hi lo : Byte} {i : Instr} (h : decodeBytes [hi, lo] = .ok (i, [])) :
    decode (wordOfBytes hi lo) = .ok i := by
  simp only [decodeBytes] at h
  split at h
  · rename_i j hj
    cases h
    exact hj
  · cases h

/-- Settles O6: the step is a cycle, and the cycle runs the instruction of the word at PC. -/
theorem stepRunsDecodedInstruction : Obligations.StepRunsDecodedInstruction := by
  intro s i hpc _ hbytes
  have hdecode : decode (wordAtPc s) = .ok i := decode_of_decodeBytes hbytes
  refine ⟨fun hpending => ?_, fun e ops hpending => ?_⟩
  · rw [step_of_no_pending hpending]
    exact cycle_of_decoded (s := { s with freeCycles := s.freeCycles + 1 }) _ (fetch_in hpc) hdecode
  · rw [step_of_pending_cycle hpending]
    exact cycle_of_decoded (s := { s with pending := ops }) _ (fetch_in hpc) hdecode

/-- The operation that comes next is taken from the list, or is a cycle with a free time. -/
theorem nextOp_snd_cases (s : State) :
    (∃ ops, (nextOp s).2 = { s with pending := ops }) ∨ (nextOp s).2 = { s with freeCycles := s.freeCycles + 1 } := by
  unfold nextOp
  split
  · exact .inl ⟨_, rfl⟩
  · exact .inr rfl

/-- A property that every operation keeps and that does not read the list of operations is kept by every step. -/
theorem step_keeps {P : State → Prop} (hpending : ∀ s ops, P s → P { s with pending := ops })
    (hfree : ∀ s n, P s → P { s with freeCycles := n }) (hcycle : ∀ e s t, P s → cycle e s = .next t → P t)
    (hperform : ∀ op s, (∀ e, op ≠ .cycle e) → P s → P (perform op s).2) {s t : State} (hs : P s)
    (h : step s = .next t) : P t := by
  have hnext : P (nextOp s).2 := by
    rcases nextOp_snd_cases s with ⟨ops, heq⟩ | heq <;> rw [heq]
    · exact hpending s ops hs
    · exact hfree s _ hs
  rcases step_eq_next h with ⟨e, _, hrun⟩ | ⟨hne, rfl⟩
  · exact hcycle e _ t hnext hrun
  · exact hperform _ _ hne hnext

/-! ### The parameters (R3, R25) -/

/-- Two states have the same parameters. -/
def SameParameters (s t : State) : Prop :=
  t.font = s.font ∧ t.shiftUsesVy = s.shiftUsesVy ∧ t.tickInterval = s.tickInterval

theorem cycle_sameParameters {e : Nat} {s t : State} (h : cycle e s = .next t) : SameParameters s t :=
  ⟨cycle_same_of_outside (p := .font) h rfl (by simp), cycle_same_of_outside (p := .shiftUsesVy) h rfl (by simp),
    cycle_same_of_outside (p := .tickInterval) h rfl (by simp)⟩

theorem perform_sameParameters {op : HostOp} (s : State) (hne : ∀ e, op ≠ .cycle e) : SameParameters s (perform op s).2 := by
  cases op with
  | cycle e => exact absurd rfl (hne e)
  | loadProgram bytes =>
    simp only [perform, loadProgram]
    split
    · exact ⟨storeBytes_font .., storeBytes_shiftUsesVy .., storeBytes_tickInterval ..⟩
    · exact ⟨rfl, rfl, rfl⟩
  | setKey code pressed =>
    simp only [perform, setKey]
    split <;> exact ⟨rfl, rfl, rfl⟩
  | _ => exact ⟨rfl, rfl, rfl⟩

/-- Settles O59: no instruction and no operation of the host writes a parameter. -/
theorem stepKeepsParameters : Obligations.StepKeepsParameters := by
  intro s t h
  refine step_keeps (P := SameParameters s) (fun _ _ => id) (fun _ _ => id) (fun e u v hu hrun => ?_) (fun op u hne hu => ?_)
    ⟨rfl, rfl, rfl⟩ h
  · obtain ⟨hfont, hshift, hinterval⟩ := hu
    obtain ⟨hfont', hshift', hinterval'⟩ := cycle_sameParameters hrun
    exact ⟨hfont'.trans hfont, hshift'.trans hshift, hinterval'.trans hinterval⟩
  · obtain ⟨hfont, hshift, hinterval⟩ := hu
    obtain ⟨hfont', hshift', hinterval'⟩ := perform_sameParameters u hne
    exact ⟨hfont'.trans hfont, hshift'.trans hshift, hinterval'.trans hinterval⟩

/-! ### The invariant (R3, R15 to R23, R100, R103) -/

theorem toNat_add_two {w : Word} (h : w.toNat ≤ 0xFFE) : (w + 2#16).toNat = w.toNat + 2 := by
  rw [BitVec.toNat_add, BitVec.toNat_ofNat, Nat.mod_eq_of_lt (by omega)]

theorem toNat_add_four {w : Word} (h : w.toNat ≤ 0xFFE) : (w + 4#16).toNat = w.toNat + 4 := by
  rw [BitVec.toNat_add, BitVec.toNat_ofNat, Nat.mod_eq_of_lt (by omega)]

/-- The largest PC is that of `JP V0`: `0xFFF + 0xFF` (R16, R109). -/
theorem pcAfterInstr_le {i : Instr} {s : State} (hret : i ≠ .ret) (hpc : s.pc.toNat ≤ 0xFFE) :
    (pcAfterInstr i s).toNat ≤ 0x10FE := by
  have htwo := toNat_add_two hpc
  have hfour := toNat_add_four hpc
  have htarget (nnn : Addr12) (b : Byte) : (BitVec.ofNat 16 (nnn.toNat + b.toNat)).toNat ≤ 0x10FE := by
    rw [BitVec.toNat_ofNat, Nat.mod_eq_of_lt (by omega)]
    omega
  cases i with
  | ret => exact absurd rfl hret
  | jp nnn | call nnn => exact htarget nnn 0#8
  | jpV0 nnn => exact htarget nnn (s.readV 0)
  | halt => exact hpc.trans (by decide)
  | seImm _ _ | sneImm _ _ | seReg _ _ | sneReg _ _ | skp _ | sknp _ | ldVxK _ =>
    simp only [pcAfterInstr]
    split <;> omega
  | _ =>
    simp only [pcAfterInstr]
    omega

/-- What an instruction does to the stack: no slot changes and SP does not grow, or `CALL` pushes PC (R17, R100, R103). -/
theorem exec_stack {i : Instr} {s t : State} (h : exec i s = .next t) :
    ((∀ k, t.slot k = s.slot k) ∧ t.sp.val ≤ s.sp.val) ∨
    (t.sp.val = s.sp.val + 1 ∧ ∀ k : Fin 16, t.slot k = if k.val = s.sp.val then s.pc else s.slot k) := by
  cases i with
  | ret =>
    obtain ⟨k, hsp, rfl⟩ := exec_ret_eq_next h
    exact .inl ⟨fun _ => rfl, by simp [hsp]⟩
  | call nnn =>
    obtain ⟨hlt, rfl⟩ := exec_call_eq_next h
    exact .inr ⟨rfl, fun k => getElem_stk_set s.stk s.sp.val hlt s.pc k⟩
  | _ =>
    have hsp : t.sp = s.sp := exec_same (p := .sp) h (by simp) (by simp [mayWrite, StatePart.isCell, StatePart.isMemIn])
    exact .inl ⟨fun k => exec_same (p := .slot k) h (by simp) (by simp [mayWrite, StatePart.isCell, StatePart.isMemIn]),
      by rw [hsp]⟩

/-- Settles O56: nothing is listed, no time has accumulated, and the stack is empty. -/
theorem resetMeetsInvariant : Obligations.ResetMeetsInvariant where
  memory_wf := rfl
  interval_pos := Nat.succ_pos _
  tacc_lt := Nat.succ_pos _
  pc_le := by decide
  stack_range := fun k hk => absurd hk (Nat.not_lt_zero k.val)

/-- PC after a return is a live entry of the stack; after any other instruction the table of R16 bounds it. -/
theorem exec_pc_le {i : Instr} {s t : State} (hinv : s.Inv) (hpc : s.pc.toNat ≤ 0xFFE) (h : exec i s.advance = .next t) :
    t.pc.toNat ≤ 0x10FE := by
  by_cases hret : i = .ret
  · subst hret
    obtain ⟨k, hsp, rfl⟩ := exec_ret_eq_next h
    rw [advance_sp] at hsp
    obtain ⟨_, hle⟩ := hinv.stack_range k (by omega)
    exact hle.trans (by decide)
  · rw [exec_pc h]
    exact pcAfterInstr_le hret hpc

/-- The live entries after an instruction are those of before and perhaps the advanced PC. -/
theorem exec_stack_range {i : Instr} {s t : State} (hinv : s.Inv) (hpc : s.pc.toNat ≤ 0xFFE)
    (h : exec i s.advance = .next t) (k : Fin 16) (hk : k.val < t.sp.val) :
    2 ≤ (t.slot k).toNat ∧ (t.slot k).toNat ≤ 0x1000 := by
  rcases exec_stack h with ⟨hslots, hsp⟩ | ⟨hsp, hslots⟩
  · rw [hslots k]
    exact hinv.stack_range k (lt_of_lt_of_le hk hsp)
  · rw [hslots k, advance_sp, advance_pc]
    rw [advance_sp] at hsp
    split
    · rw [toNat_add_two hpc]
      omega
    · exact hinv.stack_range k (by omega)

/-- The word at PC keeps the invariant, executed on the advanced PC. -/
theorem execWord_inv {s u : State} (hinv : s.Inv) (hpc : s.pc.toNat ≤ 0xFFE)
    (h : execWord (wordAtPc s) s.advance = .next u) : u.Inv := by
  have htacc : u.tacc = s.tacc := execWord_same_of_outside (s := s.advance) (p := .tacc) h rfl
  have hinterval : u.tickInterval = s.tickInterval :=
    execWord_same_of_outside (s := s.advance) (p := .tickInterval) h rfl
  have hpos : 0 < u.tickInterval := hinterval ▸ hinv.interval_pos
  have hlt : u.tacc < u.tickInterval := htacc ▸ hinterval ▸ hinv.tacc_lt
  rcases execWord_cases (wordAtPc s) s.advance with ⟨i, _, heq⟩ | ⟨r, _, heq⟩
  · rw [heq] at h
    exact ⟨exec_memWf (s := s.advance) hinv.memory_wf h, hpos, hlt, exec_pc_le hinv hpc h, exec_stack_range hinv hpc h⟩
  · rw [heq] at h
    cases h
    have hadvanced : (s.pc + 2#16).toNat ≤ 0x10FE := by
      rw [toNat_add_two hpc]
      omega
    exact ⟨hinv.memory_wf, hpos, hlt, hadvanced, hinv.stack_range⟩

theorem timerStep_inv {s : State} (e : Nat) (hinv : s.Inv) : (timerStep e s).Inv :=
  ⟨hinv.memory_wf, hinv.interval_pos, Nat.mod_lt _ hinv.interval_pos, hinv.pc_le, hinv.stack_range⟩

/-- A cycle that completes keeps the invariant. -/
theorem cycle_inv {e : Nat} {s t : State} (hinv : s.Inv) (h : cycle e s = .next t) : t.Inv := by
  obtain ⟨hpc, u, hexec, rfl⟩ := exists_execWord_of_cycle h
  exact timerStep_inv e (execWord_inv hinv hpc hexec)

theorem powerOn_inv {s : State} (hinv : s.Inv) : (powerOn s).Inv where
  memory_wf := rfl
  interval_pos := hinv.interval_pos
  tacc_lt := hinv.interval_pos
  pc_le := resetMeetsInvariant.pc_le
  stack_range := fun k hk => absurd hk (Nat.not_lt_zero k.val)

theorem resetOp_inv {s : State} (hinv : s.Inv) : (resetOp s).Inv where
  memory_wf := Memory.wf_keepWindow hinv.memory_wf
  interval_pos := hinv.interval_pos
  tacc_lt := hinv.interval_pos
  pc_le := resetMeetsInvariant.pc_le
  stack_range := fun k hk => absurd hk (Nat.not_lt_zero k.val)

theorem storeBytes_inv {s : State} (hinv : s.Inv) {a : Nat} {bs : List Byte} (hin : a + bs.length ≤ Config.memSize) :
    (s.storeBytes a bs).Inv where
  memory_wf := storeBytes_wf hinv.memory_wf hin
  interval_pos := by rw [storeBytes_tickInterval]; exact hinv.interval_pos
  tacc_lt := by rw [storeBytes_tacc, storeBytes_tickInterval]; exact hinv.tacc_lt
  pc_le := by rw [storeBytes_pc]; exact hinv.pc_le
  stack_range := fun k hk => by
    rw [storeBytes_sp] at hk
    rw [slot_congr (storeBytes_stk ..)]
    exact hinv.stack_range k hk

/-- Every operation of the host but the cycle keeps the invariant. -/
theorem perform_inv {op : HostOp} {s : State} (hne : ∀ e, op ≠ .cycle e) (hinv : s.Inv) : (perform op s).2.Inv := by
  cases op with
  | cycle e => exact absurd rfl (hne e)
  | powerOn => exact powerOn_inv hinv
  | reset => exact resetOp_inv hinv
  | loadProgram bytes =>
    simp only [perform, loadProgram]
    split
    · rename_i hfits
      exact storeBytes_inv hinv (by simp only [Config.progBase, Config.maxProg, Config.memSize] at *; omega)
    · exact hinv
  | setKey code pressed =>
    simp only [perform, setKey]
    split
    · exact ⟨hinv.memory_wf, hinv.interval_pos, hinv.tacc_lt, hinv.pc_le, hinv.stack_range⟩
    · exact hinv
  | framebuffer | redrawPending => exact hinv
  | ackRedraw => exact ⟨hinv.memory_wf, hinv.interval_pos, hinv.tacc_lt, hinv.pc_le, hinv.stack_range⟩

/-- Settles O57: a cycle keeps it, every other operation keeps it, and it does not read the list of operations. -/
theorem stepKeepsInvariant : Obligations.StepKeepsInvariant := by
  intro s t hinv h
  exact step_keeps (P := State.Inv)
    (fun _ _ h => ⟨h.memory_wf, h.interval_pos, h.tacc_lt, h.pc_le, h.stack_range⟩)
    (fun _ _ h => ⟨h.memory_wf, h.interval_pos, h.tacc_lt, h.pc_le, h.stack_range⟩)
    (fun _ _ _ => cycle_inv) (fun _ _ => perform_inv) hinv h

end Sys2Proof.Machine
end

section
/-! PROOFS. Arithmetic with a flag, the random source, the key skips and the timer moves (spec/41_alu.md R126 to R132,
spec/42_io.md R140 to R146). -/

namespace Sys2Proof.Machine

/-! ### A result with a flag (R12, R13) -/

theorem readV_vf_writeVFlag (s : State) (x : Reg) (b : Byte) (f : Bool) : (s.writeVFlag x b f).readV vf = bitByte f := by
  rw [readV_writeVFlag, if_pos rfl]

theorem readV_writeVFlag_of_ne {x : Reg} (hx : x ≠ vf) (s : State) (b : Byte) (f : Bool) :
    (s.writeVFlag x b f).readV x = b := by
  rw [readV_writeVFlag, if_neg hx, if_pos rfl]

theorem bitByte_decide (p : Prop) [Decidable p] : bitByte (decide p) = if p then 1#8 else 0#8 := by
  simp only [bitByte, decide_eq_true_eq]

theorem toNat_bitByte (b : Bool) : (bitByte b).toNat = b.toNat := by cases b <;> rfl

/-- The difference is the byte which plus the subtrahend gives the minuend (R132). -/
theorem toNat_subByte_add (a b : Byte) : ((subByte a b).toNat + b.toNat) % 256 = a.toNat := by
  rw [subByte, BitVec.toNat_ofNat]
  omega

theorem toNat_shiftRight1 (a : Byte) : (shiftRight1 a).toNat = a.toNat / 2 :=
  (BitVec.toNat_ofNat _ _).trans (Nat.mod_eq_of_lt (by omega))

theorem toNat_shiftLeft1 (a : Byte) : (shiftLeft1 a).toNat = a.toNat * 2 % 256 := BitVec.toNat_ofNat _ _

theorem toNat_shiftRightOut (a : Byte) : (shiftRightOut a).toNat = a.toNat % 2 := by
  rw [shiftRightOut, BitVec.getLsbD, Nat.toNat_testBit]
  simp

theorem toNat_shiftLeftOut (a : Byte) : (shiftLeftOut a).toNat = a.toNat / 128 := by
  rw [shiftLeftOut, BitVec.getLsbD, Nat.toNat_testBit]
  omega

/-- The frame of every result with a flag. -/
theorem keepsAllBut_result_and_flag (s : State) (x : Reg) (b : Byte) (f : Bool) :
    KeepsAllBut (fun p => p = .v x ∨ p = .v vf) s (s.writeVFlag x b f) :=
  keepsAllBut_writeVFlag (.inl rfl) (.inr rfl)

/-- Settles O29: the flag is the comparison of the unreduced sum. -/
theorem addSetsCarry : Obligations.AddSetsCarry := by
  intro x y s
  refine ⟨decode_addReg x y, _, rfl, ?flag, fun hx => ?sum, keepsAllBut_result_and_flag s x _ _⟩
  case flag => rw [readV_vf_writeVFlag, carryFlag, bitByte_decide]
  case sum => rw [readV_writeVFlag_of_ne hx, toNat_addByte]

/-- Settles O30: `SUBN` is `SUB` with the operands exchanged. -/
theorem subtractSetsStrictGreater : Obligations.SubtractSetsStrictGreater := by
  intro x y s
  have hflag (a b : Byte) : (s.writeVFlag x (subByte a b) (greaterFlag a b)).readV vf =
      if b.toNat < a.toNat then 1#8 else 0#8 := by
    rw [readV_vf_writeVFlag, greaterFlag, bitByte_decide]
  have hdiff (a b : Byte) (hx : x ≠ vf) :
      (((s.writeVFlag x (subByte a b) (greaterFlag a b)).readV x).toNat + b.toNat) % 256 = a.toNat := by
    rw [readV_writeVFlag_of_ne hx, toNat_subByte_add]
  exact ⟨decode_subReg x y, decode_subnReg x y,
    ⟨_, rfl, hflag _ _, hdiff _ _, keepsAllBut_result_and_flag s x _ _⟩,
    ⟨_, rfl, hflag _ _, hdiff _ _, keepsAllBut_result_and_flag s x _ _⟩⟩

/-- Settles O31: the source is the register that the quirk flag chooses, and the bit shifted out is its lowest or highest. -/
theorem shiftsSetBitShiftedOut : Obligations.ShiftsSetBitShiftedOut := by
  rintro x y s src rfl
  refine ⟨decode_shr x y, decode_shl x y, ?right, ?left⟩
  case right =>
    refine ⟨_, rfl, ?_, fun hx => ?_, keepsAllBut_result_and_flag s x _ _⟩
    · rw [readV_vf_writeVFlag, toNat_bitByte, toNat_shiftRightOut, State.shiftSource]
    · rw [readV_writeVFlag_of_ne hx, toNat_shiftRight1, State.shiftSource]
  case left =>
    refine ⟨_, rfl, ?_, fun hx => ?_, keepsAllBut_result_and_flag s x _ _⟩
    · rw [readV_vf_writeVFlag, toNat_bitByte, toNat_shiftLeftOut, State.shiftSource]
    · rw [readV_writeVFlag_of_ne hx, toNat_shiftLeft1, State.shiftSource]

/-! ### The random source (R131) -/

/-- Settles O32: the byte is the first of the list or a free value, and the source moves on by that byte. -/
theorem randomIsMasked : Obligations.RandomIsMasked := by
  intro x nn s
  refine ⟨decode_rnd x nn, fun b bs hfeed => ?listed, fun hfeed => ?free⟩
  case listed =>
    refine ⟨_, rfl, ?_, ?_, (keepsAllBut_rndTaken_of_cons hfeed (.inr rfl)).trans (keepsAllBut_writeV (.inl rfl))⟩
    · rw [readV_writeV_same, State.rndNext, hfeed]
    · rw [writeV_rndFeed, rndTaken_of_cons hfeed]
  case free =>
    refine ⟨_, rfl, ?_, ?_, (keepsAllBut_rndTaken_of_nil hfeed (.inr rfl)).trans (keepsAllBut_writeV (.inl rfl))⟩
    · rw [readV_writeV_same, State.rndNext, hfeed]
    · rw [writeV_rndDraws, rndTaken_of_nil hfeed]

/-! ### The key skips (R140, R141, R146) -/

theorem guardKey_of_eq {code : Byte} {k : Fin 16} (h : code.toNat = k.val) (i : Instr) (s : State) (f : Fin 16 → State) :
    guardKey code i s f = .next (f k) := by
  rcases guardKey_cases code i s f with ⟨hlt, heq⟩ | ⟨hout, _⟩
  · rw [heq, show (⟨code.toNat, hlt⟩ : Fin 16) = k from Fin.ext h]
  · omega

theorem guardKey_of_lt {code : Byte} (h : 0xF < code.toNat) (i : Instr) (s : State) (f : Fin 16 → State) :
    guardKey code i s f = .fault (.keyIndexOutOfBounds s.pc0 (encode i) code) := by
  rcases guardKey_cases code i s f with ⟨hlt, _⟩ | ⟨_, heq⟩
  · omega
  · exact heq

theorem exec_skp (x : Reg) (s : State) :
    exec (.skp x) s = guardKey (s.readV x) (.skp x) s fun k => s.skipIf (s.keyDown k) := rfl

theorem exec_sknp (x : Reg) (s : State) :
    exec (.sknp x) s = guardKey (s.readV x) (.sknp x) s fun k => s.skipIf (!s.keyDown k) := rfl

/-- Settles O33: both are guarded by the whole byte, and skip by the key it names. -/
theorem keySkips : Obligations.KeySkips := by
  intro x s
  refine ⟨decode_skp x, decode_sknp x, fun k hk => ⟨?skp, ?sknp⟩, fun hout => ⟨?skpFault, ?sknpFault⟩⟩
  case skp => exact ⟨_, (exec_skp x s).trans (guardKey_of_eq hk _ s _), skipIf_pc s _, keepsAllBut_skipIf rfl⟩
  case sknp =>
    refine ⟨_, (exec_sknp x s).trans (guardKey_of_eq hk _ s _), ?_, keepsAllBut_skipIf rfl⟩
    simp only [skipIf_pc, Bool.not_eq_true', ← Bool.not_eq_true, ite_not]
  case skpFault => rw [exec_skp, guardKey_of_lt hout, encode_of_decode (decode_skp x)]
  case sknpFault => rw [exec_sknp, guardKey_of_lt hout, encode_of_decode (decode_sknp x)]

/-! ### The timer moves (R143 to R145) -/

/-- Settles O35: each moves a byte, and the timer step of the cycle comes after. -/
theorem timerMoves : Obligations.TimerMoves := by
  intro x s
  refine ⟨decode_ldVxDT x, decode_ldDTVx x, decode_ldSTVx x, ⟨_, rfl, readV_writeV_same s x s.dt, keepsAllBut_writeV rfl⟩,
    ⟨_, rfl, rfl, keepsAllBut_setDt rfl⟩, ⟨_, rfl, rfl, keepsAllBut_setSt rfl⟩, ?cycle⟩
  case cycle =>
    rintro e k rfl
    refine ⟨fun hfetch => ?_, fun hfetch => ?_, fun hfetch => ?_⟩
    · exact ⟨_, cycle_of_decoded e hfetch (decode_ldVxDT x), readV_writeV_same s.advance x s.dt⟩
    · exact ⟨_, cycle_of_decoded e hfetch (decode_ldDTVx x), ticks_toNat _ _⟩
    · exact ⟨_, cycle_of_decoded e hfetch (decode_ldSTVx x), ticks_toNat _ _⟩

end Sys2Proof.Machine
end

section
/-! PROOFS. Faults, the stack, and runs of cycles (spec/60_exceptions.md R170 to R190, spec/40_control_flow.md R100, R101,
R103). -/

namespace Sys2Proof.Machine

/-! ### The stack instructions, by SP (R100, R103) -/

theorem exec_ret_of_empty {s : State} (h : s.sp.val = 0) : exec .ret s = .fault (.stackUnderflow s.pc0 0x00EE#16) := by
  simp only [exec, execRet, pop?_eq_none.mpr h]
  rfl

theorem exists_live_of_ne_zero {s : State} (h : ¬ s.sp.val = 0) : ∃ k : Fin 16, s.sp.val = k.val + 1 :=
  ⟨⟨s.sp.val - 1, by omega⟩, (Nat.succ_pred_eq_of_ne_zero h).symm⟩

theorem exec_ret_of_live {s : State} {k : Fin 16} (h : s.sp.val = k.val + 1) :
    exec .ret s = .next (State.setPc { s with sp := k.castSucc } (s.slot k)) := by
  simp only [exec, execRet]
  split
  · rename_i hpop
    have hempty := pop?_eq_none.mp hpop
    omega
  · rename_i w t hpop
    obtain ⟨j, hj, rfl, rfl⟩ := pop?_eq_some hpop
    obtain rfl : j = k := Fin.ext (by omega)
    rfl

theorem exec_call_of_full {s : State} (nnn : Addr12) (h : s.sp.val = 16) :
    exec (.call nnn) s = .fault (.stackOverflow s.pc0 (encode (.call nnn))) := by
  simp only [exec, execCall, push?_eq_none.mpr h]
  rfl

theorem exec_call_of_free {s : State} (nnn : Addr12) (hlt : s.sp.val < 16) :
    exec (.call nnn) s = .next (State.setPc
      { s with stk := s.stk.set s.sp.val s.pc, sp := ⟨s.sp.val + 1, Nat.succ_lt_succ hlt⟩ } (addrImm nnn)) := by
  have hpush : s.push? s.pc =
      some { s with stk := s.stk.set s.sp.val s.pc, sp := ⟨s.sp.val + 1, Nat.succ_lt_succ hlt⟩ } := dif_pos hlt
  simp only [exec, execCall, hpush]

/-- A cycle of the host on an instruction that faults reports the fault and changes nothing (R171). -/
theorem perform_cycle_of_faults {s : State} {w : Word} {i : Instr} {f : Fault} (e : Nat) (hfetch : fetch s = .ok w)
    (hdecode : decode w = .ok i) (hexec : exec i s.advance = .fault f) : perform (.cycle e) s = (.fault f, s) := by
  simp only [perform, cycle_of_decoded e hfetch hdecode, hexec, thenTimers]

/-- Settles O17: the two outcomes of a pop. -/
theorem returnPopsPc : Obligations.ReturnPopsPc := by
  have hdecode : decode 0x00EE#16 = .ok .ret := rfl
  refine ⟨hdecode, fun s => ⟨exec_ret_of_empty, fun k hk => ?pops, fun e hfetch hempty => ?faults⟩⟩
  case pops => exact ⟨_, exec_ret_of_live hk, rfl, rfl, keepsAllBut_pop (.inl rfl) (.inr rfl)⟩
  case faults =>
    refine perform_cycle_of_faults e hfetch hdecode ?_
    rw [exec_ret_of_empty (s := s.advance) hempty, pc0_advance]

/-- Settles O22: the two outcomes of a push. -/
theorem callPushesAdvancedPc : Obligations.CallPushesAdvancedPc := by
  intro nnn s
  have hword : encode (.call nnn) = wordNNN 0x2#4 nnn := encode_of_decode (decode_call nnn)
  refine ⟨decode_call nnn, fun hfull => ?full, fun k hk => ?pushes, fun e hfetch hfull => ?faults⟩
  case full => rw [exec_call_of_full nnn hfull, hword]
  case pushes =>
    have hlt : s.sp.val < 16 := by omega
    obtain rfl : ⟨s.sp.val, hlt⟩ = k := Fin.ext hk
    refine ⟨_, exec_call_of_free nnn hlt, ?_, rfl, toNat_addrImm nnn,
      keepsAllBut_push hlt (.inl rfl) (.inr (.inl rfl)) (.inr (.inr rfl))⟩
    exact (getElem_stk_set s.stk s.sp.val hlt s.pc _).trans (if_pos rfl)
  case faults =>
    refine perform_cycle_of_faults e hfetch (decode_call nnn) ?_
    rw [exec_call_of_full (s := s.advance) nnn hfull, pc0_advance, hword]

/-! ### Which instruction faults (R172 to R175) -/

/-- An outcome is as a table of faults says: a completion where it gives none, else that fault. -/
def AsTabled (table : Option Fault) (r : Result) : Prop :=
  (table = none ∧ ∃ t, r = .next t) ∨ ∃ f, table = some f ∧ r = .fault f

/-- A block is tested on the advanced PC, and its record names the instruction (R174). -/
theorem guardBlock_asTabled (len : Nat) (acc : Access) (i : Instr) (s k : State) :
    AsTabled (blockFaultOf s len acc (encode i)) (guardBlock len acc i s.advance k) := by
  rcases guardBlock_cases len acc i s.advance k with ⟨hin, heq⟩ | ⟨⟨hlen, hout⟩, heq⟩ <;> rw [heq]
  · refine .inl ⟨if_neg ?_, k, rfl⟩
    rw [advance_i] at hin
    omega
  · rw [advance_i] at hout
    have haddr : max s.i.toNat 0x1000 = if s.i.toNat ≤ 0xFFF then 0x1000 else s.i.toNat := by
      split <;> omega
    refine .inr ⟨_, if_pos ⟨hlen, hout⟩, ?_⟩
    rw [pc0_advance, advance_i, haddr]

/-- A key code is tested whole, and its record names the instruction (R146, R175). -/
theorem guardKey_asTabled (x : Reg) (i : Instr) (s : State) (k : Fin 16 → State) :
    AsTabled (if 0xF < (s.readV x).toNat then some (.keyIndexOutOfBounds s.pc (encode i) (s.readV x)) else none)
      (guardKey (s.advance.readV x) i s.advance k) := by
  rcases guardKey_cases (s.advance.readV x) i s.advance k with ⟨hlt, heq⟩ | ⟨hout, heq⟩ <;> rw [heq]
  · exact .inl ⟨if_neg (by rw [← readV_congr (advance_v s)]; omega), _, rfl⟩
  · refine .inr ⟨_, if_pos hout, ?_⟩
    rw [pc0_advance]
    rfl

/-- Every instruction has a meaning, and faults as the tables say (R172 to R175). -/
theorem exec_asTabled (i : Instr) (s : State) : AsTabled (instrFaultOf i (encode i) s) (exec i s.advance) := by
  cases i with
  | ret =>
    by_cases hempty : s.sp.val = 0
    · refine .inr ⟨_, if_pos hempty, ?_⟩
      rw [exec_ret_of_empty (s := s.advance) hempty, pc0_advance]
      rfl
    · obtain ⟨k, hk⟩ := exists_live_of_ne_zero hempty
      exact .inl ⟨if_neg hempty, _, exec_ret_of_live (s := s.advance) hk⟩
  | call nnn =>
    by_cases hfull : s.sp.val = 16
    · refine .inr ⟨_, if_pos hfull, ?_⟩
      rw [exec_call_of_full (s := s.advance) nnn hfull, pc0_advance]
    · have hfree : s.advance.sp.val < 16 := by
        rw [advance_sp]
        omega
      exact .inl ⟨if_neg hfull, _, exec_call_of_free nnn hfree⟩
  | drw _ _ _ | ldB _ | storeRegs _ | loadRegs _ => exact guardBlock_asTabled _ _ _ s _
  | skp x =>
    rw [exec_skp]
    exact guardKey_asTabled x _ s _
  | sknp x =>
    rw [exec_sknp]
    exact guardKey_asTabled x _ s _
  | ldVxK x =>
    cases hkey : s.advance.firstKey? with
    | some k => exact .inl ⟨rfl, _, exec_ldVxK_of_some x hkey⟩
    | none => exact .inl ⟨rfl, _, exec_ldVxK_of_none x hkey⟩
  | _ => exact .inl ⟨rfl, _, rfl⟩

theorem AsTabled.thenTimers {table : Option Fault} {r : Result} (e : Nat) (h : AsTabled table r) :
    AsTabled table (thenTimers e r) := by
  rcases h with ⟨hnone, t, rfl⟩ | ⟨f, hsome, rfl⟩
  · exact .inl ⟨hnone, _, rfl⟩
  · exact .inr ⟨f, hsome, rfl⟩

theorem cycle_of_fetch_error {e : Nat} {s : State} {f : Fault} (h : fetch s = .error f) : cycle e s = .fault f := by
  simp only [cycle, h]

theorem cycle_of_unknown {s : State} {w : Word} {r : Reject} (e : Nat) (hfetch : fetch s = .ok w)
    (hdecode : decode w = .error r) : cycle e s = .next (timerStep e s.advance) := by
  simp only [cycle, hfetch, execWord_of_unknown hdecode]

/-- The fetch comes first, then the instruction (R178). -/
theorem cycle_asTabled (e : Nat) (s : State) : AsTabled (faultOf s) (cycle e s) := by
  unfold faultOf
  split
  · rename_i hlast
    refine .inr ⟨_, rfl, ?_⟩
    rw [cycle_of_fetch_error (fetch_last hlast), hlast]
  · split
    · rename_i habove
      exact .inr ⟨_, rfl, cycle_of_fetch_error (fetch_above habove)⟩
    · have hfetch : fetch s = .ok (wordAtPc s) := fetch_of_le (by omega)
      split
      · rename_i i hi
        rw [cycle_of_decoded e hfetch hi, ← encode_of_decode hi]
        exact (exec_asTabled i s).thenTimers e
      · rename_i r hr
        exact .inl ⟨rfl, _, cycle_of_unknown e hfetch hr⟩

theorem AsTabled.eq_fault_iff {table : Option Fault} {r : Result} (h : AsTabled table r) (f : Fault) :
    r = .fault f ↔ table = some f := by
  rcases h with ⟨rfl, t, rfl⟩ | ⟨g, rfl, rfl⟩ <;> simp

theorem AsTabled.ne_refused {table : Option Fault} {r : Result} (h : AsTabled table r) (why : Refusal) : r ≠ .refused why := by
  rcases h with ⟨_, t, rfl⟩ | ⟨g, _, rfl⟩ <;> simp

/-- Settles O10: the cycle is as its table says. -/
theorem cycleFaultsExactlyAsTabled : Obligations.CycleFaultsExactlyAsTabled :=
  fun s e f => (cycle_asTabled e s).eq_fault_iff f

/-! ### The record of a fault (R176) -/

theorem blockFaultOf_record {s : State} {len : Nat} {acc : Access} {w : Word} {f : Fault}
    (h : blockFaultOf s len acc w = some f) : f.address = s.pc ∧ f.code ∈ [1, 2, 3, 5] ∧ f.word? = some w := by
  unfold blockFaultOf at h
  split at h <;> cases h
  exact ⟨rfl, by simp [Fault.code], rfl⟩

theorem instrFaultOf_record {i : Instr} {w : Word} {s : State} {f : Fault} (h : instrFaultOf i w s = some f) :
    f.address = s.pc ∧ f.code ∈ [1, 2, 3, 5] ∧ f.word? = some w := by
  cases i with
  | ret | call _ | skp _ | sknp _ =>
    simp only [instrFaultOf] at h
    split at h <;> cases h
    exact ⟨rfl, by simp [Fault.code], rfl⟩
  | drw _ _ _ | ldB _ | storeRegs _ | loadRegs _ => exact blockFaultOf_record h
  | _ => cases h

/-- The record names the address of the instruction, and its word unless the fetch failed. -/
theorem faultOf_record {s : State} {f : Fault} (h : faultOf s = some f) : f.address = s.pc ∧ f.code ∈ [1, 2, 3, 5] ∧
    ((s.pc.toNat ≤ 0xFFE ∧ f.word? = some (wordAtPc s)) ∨ (0xFFE < s.pc.toNat ∧ f.word? = none)) := by
  unfold faultOf at h
  split at h
  · cases h
    exact ⟨rfl, by simp [Fault.code], .inr ⟨by omega, rfl⟩⟩
  · split at h
    · cases h
      exact ⟨rfl, by simp [Fault.code], .inr ⟨by omega, rfl⟩⟩
    · split at h
      · obtain ⟨haddr, hcode, hword⟩ := instrFaultOf_record h
        exact ⟨haddr, hcode, .inl ⟨by omega, hword⟩⟩
      · cases h

/-- Settles O12: a cycle that faults hands the state back, and its record is the table's. -/
theorem faultLeavesNoTrace : Obligations.FaultLeavesNoTrace := by
  intro s t e f h
  obtain ⟨hcycle, rfl⟩ := perform_cycle_eq_fault h
  obtain ⟨haddr, hcode, hword⟩ := faultOf_record (((cycle_asTabled e t).eq_fault_iff f).mp hcycle)
  refine ⟨rfl, haddr, hcode, fun w hfetch => ?fetched, fun hno => ?failed⟩
  case fetched =>
    obtain ⟨hpc, rfl⟩ := fetch_eq_wordAtPc hfetch
    rcases hword with ⟨_, hsome⟩ | ⟨hout, _⟩
    · exact hsome
    · omega
  case failed =>
    rcases hword with ⟨hpc, _⟩ | ⟨_, hnone⟩
    · exact absurd (fetch_of_le hpc) (hno _)
    · exact hnone

theorem advance_rewind (s : State) : s.rewind.advance = s := by
  have hpc : s.pc - 2#16 + 2#16 = s.pc := BitVec.sub_add_cancel _ _
  simp only [State.rewind, State.advance, State.pc0, State.setPc, hpc]

/-- Settles O11: every outcome is as a table says, and no table has code 4. -/
theorem nothingIsRefused : Obligations.NothingIsRefused := by
  refine ⟨fun i s why => ?exec, fun e s why => (cycle_asTabled e s).ne_refused why, fun s why => ?step, fun s p w k => ?code⟩
  case exec =>
    have htable := exec_asTabled i s.rewind
    rw [advance_rewind] at htable
    exact htable.ne_refused why
  case step =>
    unfold step stepOp
    split
    · exact (cycle_asTabled _ _).ne_refused why
    · simp
  case code =>
    unfold step stepOp
    split
    · rename_i e t _
      intro h
      obtain ⟨_, hcode, _⟩ := faultOf_record (((cycle_asTabled e t).eq_fault_iff _).mp h)
      exact absurd hcode (by simp [Fault.code])
    · simp

/-- The table of faults reads no key, no time and no random byte. -/
theorem faultOf_inputs (s : State) (key : Vector Bool 16) (feed : List Byte) (draws : Nat) :
    faultOf { s with key := key, rndFeed := feed, rndDraws := draws } = faultOf s := rfl

/-- A fault repeats in every sequence of cycles, since each of them hands the state back (R171). -/
theorem session_of_faults {s : State} {f : Fault} (h : faultOf s = some f) (times : List Nat) :
    session (times.map HostOp.cycle) s = (times.map fun _ => .fault f, s) := by
  induction times with
  | nil => rfl
  | cons e times ih =>
    have hcycle : cycle e s = .fault f := ((cycle_asTabled e s).eq_fault_iff f).mpr h
    simp only [List.map_cons, session, perform, hcycle, ih]

/-- Settles O13: the fault is the table's, and the table reads nothing that may change. -/
theorem faultComesAgain : Obligations.FaultComesAgain := by
  intro s e f h
  have htable : faultOf s = some f := ((cycle_asTabled e s).eq_fault_iff f).mp h
  refine ⟨fun e' key feed draws => ?_, session_of_faults htable⟩
  exact ((cycle_asTabled e' _).eq_fault_iff f).mpr ((faultOf_inputs s key feed draws).trans htable)

/-! ### Ticks (R186, R187) -/

/-- `k` ticks of the machine are `k` ticks of each counter. -/
theorem timerTick_iterate (k : Nat) (s : State) :
    timerTick^[k] s = { s with dt := ticks k s.dt, st := ticks k s.st } := by
  induction k generalizing s with
  | zero => rfl
  | succ k ih =>
    rw [Function.iterate_succ_apply, ih]
    rfl

/-- Settles O15: the ticks are those of each counter, and the timer step makes as many as there are whole intervals. -/
theorem ticksStopAtZero : Obligations.TicksStopAtZero := by
  refine ⟨fun k s => ?_, fun e s => ?_⟩ <;> rw [timerTick_iterate]
  · refine ⟨ticks_toNat k s.dt, ticks_toNat k s.st, fun p hp => ?_⟩
    cases p with
    | dt => exact absurd (.inl rfl) hp
    | st => exact absurd (.inr rfl) hp
    | _ => rfl
  · rfl

/-! ### Runs of cycles -/

theorem KeepsAllBut.mono {touched touched' : StatePart → Prop} {s t : State} (h : KeepsAllBut touched s t)
    (hle : ∀ p, touched p → touched' p) : KeepsAllBut touched' s t :=
  fun p hp => h p fun htouched => hp (hle p htouched)

/-- The timer step writes the timers and the accumulated time. -/
theorem keepsAllBut_timerStep {touched : StatePart → Prop} {s : State} (e : Nat) (hdt : touched .dt) (hst : touched .st)
    (htacc : touched .tacc) : KeepsAllBut touched s (timerStep e s) := by
  intro p hp
  cases p with
  | dt => exact absurd hdt hp
  | st => exact absurd hst hp
  | tacc => exact absurd htacc hp
  | _ => rfl

/-- A cycle on an instruction that completes (R63). -/
theorem cycle_of_exec {s t : State} {i : Instr} (e : Nat) (hpc : s.pc.toNat ≤ 0xFFE) (hdecode : decode (wordAtPc s) = .ok i)
    (hexec : exec i s.advance = .next t) : cycle e s = .next (timerStep e t) := by
  rw [cycle_of_decoded e (fetch_of_le hpc) hdecode, hexec]
  rfl

/-- The frame of a cycle, from the frame of its instruction. -/
theorem keepsAllBut_cycle {touched : StatePart → Prop} {s t : State} (e : Nat) (h : KeepsAllBut touched s.advance t)
    (hpc : touched .pc) (hdt : touched .dt) (hst : touched .st) (htacc : touched .tacc) :
    KeepsAllBut touched s (timerStep e t) :=
  (keepsAllBut_setPc (s := s) hpc).trans (h.trans (keepsAllBut_timerStep e hdt hst htacc))

/-- What a call and its return touch on the way. -/
def callReturnTouches (k : Fin 16) (p : StatePart) : Prop :=
  p = .pc ∨ p = .sp ∨ p = .slot k ∨ p = .dt ∨ p = .st ∨ p = .tacc

theorem keepsAllBut_cycle_of_callReturn {k : Fin 16} {s t : State} {touched : StatePart → Prop} (e : Nat)
    (h : KeepsAllBut touched s.advance t) (hle : ∀ p, touched p → callReturnTouches k p) :
    KeepsAllBut (callReturnTouches k) s (timerStep e t) :=
  keepsAllBut_cycle e (h.mono hle) (by simp [callReturnTouches]) (by simp [callReturnTouches])
    (by simp [callReturnTouches]) (by simp [callReturnTouches])

/-- Settles O23: the call leaves the return address in the slot that the return pops, and SP comes back. -/
theorem callThenReturnComesBack : Obligations.CallThenReturnComesBack := by
  intro s nnn k e e' hpc hcall hsp hnnn hhi hlo
  obtain ⟨_, _, hpush, _⟩ := callPushesAdvancedPc nnn s.advance
  obtain ⟨t, hexec, hslot, htsp, htpc, hkeeps⟩ := hpush k hsp
  have hret : decode (wordAtPc (timerStep e t)) = .ok .ret := by
    have hbyte (a : Nat) : t.byteAt a = s.byteAt a := hkeeps (.mem a) (by simp)
    have hword : wordAtPc (timerStep e t) = t.byteAt nnn.toNat ++ t.byteAt (nnn.toNat + 1) := by rw [← htpc]; rfl
    rw [hword, hbyte, hbyte, hhi, hlo]
    rfl
  obtain ⟨_, hreturn⟩ := returnPopsPc
  obtain ⟨_, hpop, _⟩ := hreturn (timerStep e t).advance
  obtain ⟨u, hexec', husp, hupc, hkeeps'⟩ := hpop k htsp
  have hpc' : (timerStep e t).pc.toNat ≤ 0xFFE := by rwa [timerStep_pc, htpc]
  have hframe : KeepsAllBut (callReturnTouches k) s (timerStep e' u) :=
    (keepsAllBut_cycle_of_callReturn e hkeeps (by rintro p (rfl | rfl | rfl) <;> simp [callReturnTouches])).trans
      (keepsAllBut_cycle_of_callReturn e' hkeeps' (by rintro p (rfl | rfl) <;> simp [callReturnTouches]))
  refine ⟨timerStep e t, timerStep e' u, cycle_of_exec e hpc hcall hexec, cycle_of_exec e' hpc' hret hexec',
    hupc.trans hslot, fun p hp => ?_⟩
  by_cases hpsp : p = .sp
  · subst hpsp
    exact Fin.ext (husp.trans hsp.symm)
  · refine hframe p ?_
    simp only [callReturnTouches]
    tauto

/-- A step while only cycles are pending, or nothing is, is a cycle. -/
theorem step_of_cycles_pending {s : State} (h : ∀ op ∈ s.pending, ∃ e, op = .cycle e) :
    ∃ e n, step s = cycle e { s with pending := s.pending.drop 1, freeCycles := n } := by
  cases hpending : s.pending with
  | nil =>
    refine ⟨Config.freeElapsed s.freeCycles, s.freeCycles + 1, ?_⟩
    rw [step_of_no_pending hpending, List.drop_nil, ← hpending]
  | cons op ops =>
    obtain ⟨e, rfl⟩ := h op (by simp [hpending])
    exact ⟨e, s.freeCycles, step_of_pending_cycle hpending⟩

/-- A cycle on a `HALT` word is its timer step (R101). -/
theorem cycle_of_halt {s : State} (e : Nat) (hpc : s.pc.toNat ≤ 0xFFE) (hword : wordAtPc s = 0x0000#16) :
    cycle e s = .next (timerStep e s) := by
  have hdecode : decode (wordAtPc s) = .ok .halt := by
    rw [hword]
    rfl
  exact cycle_of_exec e hpc hdecode (congrArg _ (rewind_advance s))

theorem run_succ_of_step {s t : State} (h : step s = .next t) (k : Nat) :
    Sys2Proof.core.run (k + 1) s = Sys2Proof.core.run k t := by
  have hcore : Sys2Proof.core.step s = .next t := h
  simp only [Host.Core.run, hcore]

/-- Settles O19, by induction on the number of steps: each of them leaves PC and the word at PC. -/
theorem haltedMachineStaysHalted : Obligations.HaltedMachineStaysHalted := by
  intro k
  induction k with
  | zero => exact fun s _ _ _ => ⟨s, rfl, List.drop_zero.symm, KeepsAllBut.refl s⟩
  | succ k ih =>
    intro s hcycles hpc hword
    obtain ⟨e, n, hstep⟩ := step_of_cycles_pending hcycles
    replace hstep := hstep.trans (cycle_of_halt e hpc hword)
    obtain ⟨t, hrun, hpending, hkeeps⟩ :=
      ih (timerStep e { s with pending := s.pending.drop 1, freeCycles := n })
        (fun op hop => hcycles op (List.mem_of_mem_drop hop)) hpc hword
    refine ⟨t, (run_succ_of_step hstep k).trans hrun, ?_, fun p hp => ?_⟩
    · rw [hpending, timerStep_pending, List.drop_drop, Nat.add_comm]
    · have hlater := hkeeps p hp
      cases p with
      | dt | st | tacc | freeCycles | pending => simp at hp
      | _ => exact hlater

end Sys2Proof.Machine
end

section
/-! PROOFS. What instructions do not read: keys, accumulated time and the sound timer (spec/10_state.md R20, R21, R23). -/

namespace Sys2Proof.Machine

/-! ### Other values of the keys, TACC and ST -/

/-- The state with other keys, another accumulated time and another sound timer. -/
def State.withInputs (s : State) (key : Vector Bool 16) (n : Nat) (b : Byte) : State :=
  { s with key := key, tacc := n, st := b }

/-- The outcome with another next state. -/
def mapNext (g : State → State) : Result → Result
  | .next t => .next (g t)
  | .fault f => .fault f
  | .refused r => .refused r

/-- The instructions that read the keys (R140 to R142). -/
def readsKeys : Instr → Bool
  | .skp _ | .sknp _ | .ldVxK _ => true
  | .cls | .ret | .halt | .jp _ | .call _ | .seImm _ _ | .sneImm _ _ | .seReg _ _ | .ldImm _ _ | .addImm _ _
  | .ldReg _ _ | .orReg _ _ | .andReg _ _ | .xorReg _ _ | .addReg _ _ | .subReg _ _ | .shr _ _ | .subnReg _ _
  | .shl _ _ | .sneReg _ _ | .ldI _ | .jpV0 _ | .rnd _ _ | .drw _ _ _ | .ldVxDT _ | .ldDTVx _
  | .ldSTVx _ | .addI _ | .ldF _ | .ldB _ | .storeRegs _ | .loadRegs _ => false

/-! ### The shared operations do not see them -/

section
variable (s : State) (key : Vector Bool 16) (n : Nat) (b : Byte)

theorem skipIf_withInputs (c : Bool) : (s.withInputs key n b).skipIf c = (s.skipIf c).withInputs key n b := by
  cases c <;> rfl

theorem storeBytes_withInputs (a : Nat) (bs : List Byte) :
    (s.withInputs key n b).storeBytes a bs = (s.storeBytes a bs).withInputs key n b := by
  induction bs generalizing s a with
  | nil => rfl
  | cons c bs ih => exact ih (s.storeByte a c) (a + 1)

theorem drawn_withInputs (x y : Reg) (rows : Nat) : (s.withInputs key n b).drawn x y rows = s.drawn x y rows :=
  congrArg (fun bs => drawRows (s.readV x).toNat (s.readV y).toNat bs (s.fb, false))
    (bytesFrom_congr (s := s) (t := s.withInputs key n b) (fun _ => rfl) (s.indexed 0) rows)

theorem rndTaken_withInputs : (s.withInputs key n b).rndTaken = s.rndTaken.withInputs key n b := by
  cases hfeed : s.rndFeed with
  | nil =>
    rw [rndTaken_of_nil hfeed]
    exact rndTaken_of_nil hfeed
  | cons c cs =>
    rw [rndTaken_of_cons hfeed]
    exact rndTaken_of_cons hfeed

theorem guardBlock_withInputs {len : Nat} {acc : Access} {i : Instr} {k k' : State} (hk : k' = k.withInputs key n b) :
    guardBlock len acc i (s.withInputs key n b) k' = mapNext (·.withInputs key n b) (guardBlock len acc i s k) := by
  subst hk
  unfold guardBlock
  have hi : (s.withInputs key n b).i = s.i := rfl
  rw [hi]
  cases blockFault s.i.toNat len <;> rfl

theorem guardKey_withInputs {code : Byte} {i : Instr} {k k' : Fin 16 → State}
    (hk : ∀ j, k' j = (k j).withInputs key n b) :
    guardKey code i (s.withInputs key n b) k' = mapNext (·.withInputs key n b) (guardKey code i s k) := by
  unfold guardKey
  split
  · exact congrArg _ (hk _)
  · rfl

end

/-- With other inputs an instruction does the same: the keys may differ unless it reads them, and the sound timer unless it is
the load that overwrites it. -/
theorem exec_withInputs {i : Instr} {s : State} {key : Vector Bool 16} (n : Nat) (b : Byte)
    (hkey : readsKeys i = true → key = s.key) (hst : ∀ x, i ≠ .ldSTVx x) :
    exec i (s.withInputs key n b) = mapNext (·.withInputs key n b) (exec i s) := by
  cases i with
  | ldSTVx x => exact absurd rfl (hst x)
  | ret =>
    by_cases hempty : s.sp.val = 0
    · rw [exec_ret_of_empty hempty, exec_ret_of_empty (s := s.withInputs key n b) hempty]
      rfl
    · obtain ⟨k, hk⟩ := exists_live_of_ne_zero hempty
      rw [exec_ret_of_live hk, exec_ret_of_live (s := s.withInputs key n b) hk]
      rfl
  | call nnn =>
    by_cases hfull : s.sp.val = 16
    · rw [exec_call_of_full nnn hfull, exec_call_of_full (s := s.withInputs key n b) nnn hfull]
      rfl
    · have hfree : s.sp.val < 16 := by omega
      rw [exec_call_of_free nnn hfree, exec_call_of_free (s := s.withInputs key n b) nnn hfree]
      rfl
  | skp x =>
    rw [exec_skp, exec_skp, hkey rfl]
    exact guardKey_withInputs s s.key n b fun j => skipIf_withInputs s s.key n b _
  | sknp x =>
    rw [exec_sknp, exec_sknp, hkey rfl]
    exact guardKey_withInputs s s.key n b fun j => skipIf_withInputs s s.key n b _
  | ldVxK x =>
    rw [hkey rfl]
    cases hfirst : s.firstKey? with
    | some k =>
      rw [exec_ldVxK_of_some x hfirst, exec_ldVxK_of_some (s := s.withInputs s.key n b) x hfirst]
      rfl
    | none =>
      rw [exec_ldVxK_of_none x hfirst, exec_ldVxK_of_none (s := s.withInputs s.key n b) x hfirst]
      rfl
  | seImm _ _ | sneImm _ _ | seReg _ _ | sneReg _ _ => exact congrArg _ (skipIf_withInputs s key n b _)
  | rnd x nn =>
    simp only [exec, execRnd, rndTaken_withInputs]
    rfl
  | drw x y rows =>
    refine guardBlock_withInputs s key n b ?_
    rw [drawn_withInputs]
    rfl
  | loadRegs _ => exact guardBlock_withInputs s key n b rfl
  | ldB _ | storeRegs _ => exact guardBlock_withInputs s key n b (storeBytes_withInputs s key n b _ _)
  | _ => rfl

/-- Settles O54: no instruction but the three sees the keys, and none writes TACC or, but for its load, ST. -/
theorem onlyKeyInstructionsReadKeys : Obligations.OnlyKeyInstructionsReadKeys := by
  intro i s key hskp hsknp hldVxK
  by_cases hst : ∃ x, i = .ldSTVx x
  · obtain ⟨x, rfl⟩ := hst
    refine ⟨fun t h => ?_, fun f h => ?_⟩ <;> cases h
    rfl
  · have hkeys : readsKeys i = true → key = s.key := by
      intro hreads
      cases i with
      | skp x => exact absurd rfl (hskp x)
      | sknp x => exact absurd rfl (hsknp x)
      | ldVxK x => exact absurd rfl (hldVxK x)
      | _ => cases hreads
    have hsame : exec i { s with key := key } = _ :=
      exec_withInputs (s := s) s.tacc s.st hkeys fun x hx => hst ⟨x, hx⟩
    refine ⟨fun t h => ?_, fun f h => ?_⟩ <;> rw [hsame, h]
    · have htacc : t.tacc = s.tacc := exec_same (p := .tacc) h (by simp) (not_mayWrite_of_outside rfl i s)
      have hst' : t.st = s.st := exec_same (p := .st) h (by simp) (not_mayWrite_st s fun x hx => hst ⟨x, hx⟩)
      rw [mapNext, State.withInputs, ← htacc, ← hst']
    · rfl

/-- Settles O55: no instruction sees TACC or ST, and the load of ST overwrites it in any case. -/
theorem noInstructionReadsTaccOrSt : Obligations.NoInstructionReadsTaccOrSt := by
  intro i s n b
  by_cases hst : ∃ x, i = .ldSTVx x
  · obtain ⟨x, rfl⟩ := hst
    refine ⟨fun t h => ?_, fun f h => ?_⟩ <;> cases h
    refine ⟨_, rfl, fun p hp => ?_⟩
    cases p with
    | tacc | st => simp at hp
    | _ => rfl
  · have hsame : exec i { s with tacc := n, st := b } = _ :=
      exec_withInputs (s := s) (key := s.key) n b (fun _ => rfl) fun x hx => hst ⟨x, hx⟩
    refine ⟨fun t h => ?_, fun f h => ?_⟩ <;> rw [hsame, h]
    · refine ⟨_, rfl, fun p hp => ?_⟩
      cases p with
      | tacc | st => simp at hp
      | key k =>
        have hkey : t.keyDown k = s.keyDown k := exec_same (p := .key k) h (by simp) (not_mayWrite_of_outside rfl i s)
        exact hkey.symm
      | _ => rfl
    · rfl

end Sys2Proof.Machine
end

section
/-! PROOFS. The sprite draw (spec/44_display.md R161, R162): `DRW` flips the cells under the set bits of the sprite, each once. -/

namespace Sys2Proof.Machine

/-! ### Flipping a list of distinct cells -/

/-- A position on the display: row and column. -/
abbrev Pos := Fin 32 × Fin 64

/-- Draw a set bit at each position in turn. -/
def drawPixels (ps : List Pos) (c : Canvas) : Canvas := ps.foldl (fun c p => drawPixel c p.1 p.2) c

theorem cellAt_drawPixel (c : Canvas) (p q : Pos) :
    cellAt (drawPixel c p.1 p.2).1 q.1 q.2 = Bool.xor (cellAt c.1 q.1 q.2) (decide (q = p)) := by
  have hsame : (q.1 = p.1 ∧ q.2 = p.2) ↔ q = p := Prod.ext_iff.symm
  rw [drawPixel, cellAt_flipCell]
  by_cases h : q = p <;> simp [hsame, h]

/-- Distinct positions are flipped once each, and no other cell is. -/
theorem cellAt_drawPixels {ps : List Pos} (hnodup : ps.Nodup) (c : Canvas) (q : Pos) :
    cellAt (drawPixels ps c).1 q.1 q.2 = Bool.xor (cellAt c.1 q.1 q.2) (decide (q ∈ ps)) := by
  induction ps generalizing c with
  | nil => simp [drawPixels]
  | cons p ps ih =>
    obtain ⟨hp, hps⟩ := List.nodup_cons.mp hnodup
    have hstep : drawPixels (p :: ps) c = drawPixels ps (drawPixel c p.1 p.2) := rfl
    rw [hstep, ih hps, cellAt_drawPixel]
    by_cases hq : q = p
    · subst hq
      simp [hp]
    · simp [hq]

/-- There is a collision exactly when one of the distinct positions was set (R162). -/
theorem collision_drawPixels {ps : List Pos} (hnodup : ps.Nodup) (c : Canvas) :
    (drawPixels ps c).2 = true ↔ c.2 = true ∨ ∃ p ∈ ps, cellAt c.1 p.1 p.2 = true := by
  induction ps generalizing c with
  | nil => simp [drawPixels]
  | cons p ps ih =>
    obtain ⟨hp, hps⟩ := List.nodup_cons.mp hnodup
    have hstep : drawPixels (p :: ps) c = drawPixels ps (drawPixel c p.1 p.2) := rfl
    have hflag : (drawPixel c p.1 p.2).2 = true ↔ c.2 = true ∨ cellAt c.1 p.1 p.2 = true := Bool.or_eq_true_iff
    have hlater : (∃ q ∈ ps, cellAt (drawPixel c p.1 p.2).1 q.1 q.2 = true) ↔ ∃ q ∈ ps, cellAt c.1 q.1 q.2 = true := by
      refine exists_congr fun q => and_congr_right fun hq => ?_
      have hne : q ≠ p := fun h => hp (h ▸ hq)
      simp [cellAt_drawPixel, hne]
    rw [hstep, ih hps, hflag, hlater]
    simp only [List.mem_cons, exists_eq_or_imp, or_assoc]

/-! ### The positions of a sprite -/

/-- The positions under the set bits of one sprite row. -/
def rowPixels (b : Byte) (vx : Nat) (y : Fin 32) : List Pos :=
  ([0, 1, 2, 3, 4, 5, 6, 7].filter (spriteBit b)).map fun col => (y, wrapCol (vx + col))

/-- The positions under the set bits of a sprite. -/
def spritePixels (vx vy : Nat) : List Byte → List Pos
  | [] => []
  | b :: bs => rowPixels b vx (wrapRow vy) ++ spritePixels vx (vy + 1) bs

theorem drawRow_eq_drawPixels (b : Byte) (vx : Nat) (y : Fin 32) (c : Canvas) :
    drawRow b vx y c = drawPixels (rowPixels b vx y) c := by
  rw [drawPixels, rowPixels, List.foldl_map, List.foldl_filter]
  rfl

/-- Drawing a sprite is drawing its positions. -/
theorem drawRows_eq_drawPixels (vx vy : Nat) (bs : List Byte) (c : Canvas) :
    drawRows vx vy bs c = drawPixels (spritePixels vx vy bs) c := by
  induction bs generalizing vy c with
  | nil => rfl
  | cons b bs ih =>
    rw [drawRows, ih, drawRow_eq_drawPixels, spritePixels, drawPixels, drawPixels, drawPixels, List.foldl_append]

theorem mem_rowPixels {b : Byte} {vx : Nat} {y : Fin 32} {p : Pos} :
    p ∈ rowPixels b vx y ↔ ∃ col, col < 8 ∧ spriteBit b col = true ∧ p = (y, wrapCol (vx + col)) := by
  have hcols (col : Nat) : col ∈ [0, 1, 2, 3, 4, 5, 6, 7] ↔ col < 8 := by
    rw [show [0, 1, 2, 3, 4, 5, 6, 7] = List.range 8 from rfl, List.mem_range]
  simp only [rowPixels, List.mem_map, List.mem_filter, hcols, and_assoc, eq_comm (a := p)]

theorem mem_spritePixels {vx vy : Nat} {bs : List Byte} {p : Pos} : p ∈ spritePixels vx vy bs ↔
    ∃ row col, row < bs.length ∧ col < 8 ∧ spriteBit (bs.getD row 0#8) col = true ∧
      p = (wrapRow (vy + row), wrapCol (vx + col)) := by
  induction bs generalizing vy with
  | nil => simp [spritePixels]
  | cons b bs ih =>
    rw [spritePixels, List.mem_append, mem_rowPixels, ih]
    constructor
    · rintro (⟨col, hcol, hbit, rfl⟩ | ⟨row, col, hrow, hcol, hbit, rfl⟩)
      · exact ⟨0, col, Nat.succ_pos _, hcol, hbit, rfl⟩
      · exact ⟨row + 1, col, Nat.succ_lt_succ hrow, hcol, hbit, by rw [show vy + 1 + row = vy + (row + 1) by omega]⟩
    · rintro ⟨row, col, hrow, hcol, hbit, rfl⟩
      cases row with
      | zero => exact .inl ⟨col, hcol, hbit, rfl⟩
      | succ row =>
        exact .inr ⟨row, col, Nat.lt_of_succ_lt_succ hrow, hcol, hbit, by rw [show vy + 1 + row = vy + (row + 1) by omega]⟩

/-- Eight columns do not meet on a display of 64 (R162). -/
theorem wrapCol_inj {vx col col' : Nat} (hcol : col < 8) (hcol' : col' < 8)
    (h : wrapCol (vx + col) = wrapCol (vx + col')) : col = col' := by
  have hmod : (vx + col) % 64 = (vx + col') % 64 := congrArg Fin.val h
  omega

/-- Up to 32 rows do not meet on a display of 32 (R162). -/
theorem wrapRow_inj {vy row row' : Nat} (hrow : row < 32) (hrow' : row' < 32)
    (h : wrapRow (vy + row) = wrapRow (vy + row')) : row = row' := by
  have hmod : (vy + row) % 32 = (vy + row') % 32 := congrArg Fin.val h
  omega

theorem nodup_rowPixels (b : Byte) (vx : Nat) (y : Fin 32) : (rowPixels b vx y).Nodup := by
  refine List.Nodup.map_on ?_ (List.Nodup.filter _ (by decide))
  intro col hcol col' hcol' h
  have hlt (c : Nat) (hc : c ∈ [0, 1, 2, 3, 4, 5, 6, 7].filter (spriteBit b)) : c < 8 :=
    List.mem_range.mp (List.mem_of_mem_filter hc : c ∈ List.range 8)
  exact wrapCol_inj (hlt col hcol) (hlt col' hcol') (congrArg Prod.snd h)

/-- The positions of a sprite of at most 32 rows are distinct. -/
theorem nodup_spritePixels {vx vy : Nat} {bs : List Byte} (hlen : bs.length ≤ 32) : (spritePixels vx vy bs).Nodup := by
  induction bs generalizing vy with
  | nil => exact List.nodup_nil
  | cons b bs ih =>
    rw [List.length_cons] at hlen
    refine List.Nodup.append (nodup_rowPixels b vx _) (ih (by omega)) fun p hfirst hlater => ?_
    obtain ⟨_, _, _, rfl⟩ := mem_rowPixels.mp hfirst
    obtain ⟨row, _, hrow, _, _, heq⟩ := mem_spritePixels.mp hlater
    have hwrap : wrapRow (vy + 0) = wrapRow (vy + (row + 1)) := by
      rw [Nat.add_zero, show vy + (row + 1) = vy + 1 + row by omega]
      exact congrArg Prod.fst heq
    exact absurd (wrapRow_inj (by decide) (by omega) hwrap) (by omega)

/-! ### The draw of a state -/

/-- The positions that `DRW` draws from this state. -/
def State.pixels (s : State) (x y : Reg) (n : Nat) : List Pos :=
  spritePixels (s.readV x).toNat (s.readV y).toNat (s.bytesFrom (s.indexed 0) n)

theorem drawn_eq_drawPixels (s : State) (x y : Reg) (n : Nat) :
    s.drawn x y n = drawPixels (s.pixels x y n) (s.fb, false) := drawRows_eq_drawPixels _ _ _ _

/-- The bit of the sprite at a row and a column lies over a cell, coordinates wrapped separately (R162). -/
def State.liesOver (s : State) (x y : Reg) (row col : Nat) (r : Fin 32) (c : Fin 64) : Prop :=
  r.val = ((s.readV y).toNat + row) % 32 ∧ c.val = ((s.readV x).toNat + col) % 64

theorem mem_pixels {s : State} {x y : Reg} {n : Nat} {r : Fin 32} {c : Fin 64} : (r, c) ∈ s.pixels x y n ↔
    ∃ row col, row < n ∧ col < 8 ∧ s.liesOver x y row col r c ∧ (s.byteAt (s.indexed row)).getLsbD (7 - col) = true := by
  have hbyte {row : Nat} (hrow : row < n) : (s.bytesFrom (s.indexed 0) n).getD row 0#8 = s.byteAt (s.indexed row) := by
    rw [List.getD_eq_getElem?_getD, bytesFrom_getElem? s _ n row hrow]
    rfl
  have hover (row col : Nat) : (r, c) = (wrapRow ((s.readV y).toNat + row), wrapCol ((s.readV x).toNat + col)) ↔
      s.liesOver x y row col r c := by
    rw [Prod.mk.injEq, Fin.ext_iff, Fin.ext_iff]
    rfl
  rw [State.pixels, mem_spritePixels, bytesFrom_length]
  refine exists_congr fun row => exists_congr fun col => and_congr_right fun hrow => and_congr_right fun _ => ?_
  rw [hbyte hrow, hover, and_comm]
  rfl

/-- A bit of the sprite over a cell is the only one over it. -/
theorem mem_pixels_of_liesOver {s : State} {x y : Reg} {n row col : Nat} {r : Fin 32} {c : Fin 64} (hn : n ≤ 32)
    (hrow : row < n) (hcol : col < 8) (hover : s.liesOver x y row col r c) :
    (r, c) ∈ s.pixels x y n ↔ (s.byteAt (s.indexed row)).getLsbD (7 - col) = true := by
  rw [mem_pixels]
  constructor
  · rintro ⟨row', col', hrow', hcol', ⟨hr', hc'⟩, hbit⟩
    obtain ⟨hr, hc⟩ := hover
    obtain rfl : row = row' := by omega
    obtain rfl : col = col' := by omega
    exact hbit
  · exact fun hbit => ⟨row, col, hrow, hcol, hover, hbit⟩

theorem nodup_pixels {s : State} {x y : Reg} {n : Nat} (hn : n ≤ 32) : (s.pixels x y n).Nodup :=
  nodup_spritePixels (by rwa [bytesFrom_length])

theorem cellAt_drawn {s : State} {x y : Reg} {n : Nat} (hn : n ≤ 32) (r : Fin 32) (c : Fin 64) :
    cellAt (s.drawn x y n).1 r c = Bool.xor (cellAt s.fb r c) (decide ((r, c) ∈ s.pixels x y n)) := by
  rw [drawn_eq_drawPixels]
  exact cellAt_drawPixels (nodup_pixels hn) (s.fb, false) (r, c)

theorem collision_drawn {s : State} {x y : Reg} {n : Nat} (hn : n ≤ 32) :
    (s.drawn x y n).2 = true ↔ ∃ r c, (r, c) ∈ s.pixels x y n ∧ cellAt s.fb r c = true := by
  rw [drawn_eq_drawPixels, collision_drawPixels (nodup_pixels hn)]
  simp

/-- The state that a draw leaves (R162). -/
def State.afterDraw (s : State) (x y : Reg) (n : Nat) : State :=
  (s.setDisplay (s.drawn x y n).1).writeV vf (bitByte (s.drawn x y n).2)

theorem exec_drw_of_in {s : State} {n : Nat} (x y : Reg) (h : n = 0 ∨ s.i.toNat + n ≤ 0x1000) :
    exec (.drw x y n) s = .next (s.afterDraw x y n) := guardBlock_of_in h

theorem readV_vf_afterDraw (s : State) (x y : Reg) (n : Nat) :
    (s.afterDraw x y n).readV vf = bitByte (s.drawn x y n).2 := readV_writeV_same _ _ _

theorem keepsAllBut_afterDraw (s : State) (x y : Reg) (n : Nat) :
    KeepsAllBut (fun p => p.isCell ∨ p = .v vf ∨ p = .rdrw) s (s.afterDraw x y n) :=
  (keepsAllBut_setDisplay (fun r c => .inl ⟨r, c, rfl⟩) (.inr (.inr rfl))).trans (keepsAllBut_writeV (.inr (.inl rfl)))

/-- Settles O44: a cell is flipped exactly when a set bit lies over it, and a set cell that is flipped is the collision. -/
theorem drawXorsSprite : Obligations.DrawXorsSprite := by
  intro x y n s
  have hdecode : decode (wordXYN 0xD#4 x y (BitVec.ofFin (w := 4) n)) = .ok (.drw x y n.val) :=
    decode_drw x y (BitVec.ofFin (w := 4) n)
  have hn : n.val ≤ 32 := by omega
  refine ⟨hdecode, fun hin => ?completes, fun hlen hout => ?faults⟩
  case completes =>
    refine ⟨_, exec_drw_of_in x y hin, fun r c row col hrow hcol hr hc => ?under, fun r c hnone => ?other, ?collision,
      fun hnone => ?clear, rfl, keepsAllBut_afterDraw s x y n⟩
    case under =>
      refine (cellAt_drawn hn r c).trans ?_
      simp only [mem_pixels_of_liesOver hn hrow hcol ⟨hr, hc⟩, Bool.decide_eq_true]
    case other =>
      have hout : (r, c) ∉ s.pixels x y n := by
        rw [mem_pixels]
        rintro ⟨row, col, hrow, hcol, ⟨hr, hc⟩, _⟩
        exact hnone row col hrow hcol hr hc
      refine (cellAt_drawn hn r c).trans ?_
      rw [decide_eq_false hout, Bool.xor_false]
    case collision =>
      rintro ⟨r, c, row, col, hrow, hcol, hr, hc, hbit, hset⟩
      have hmem : (r, c) ∈ s.pixels x y n := mem_pixels.mpr ⟨row, col, hrow, hcol, ⟨hr, hc⟩, hbit⟩
      rw [readV_vf_afterDraw, (collision_drawn hn).mpr ⟨r, c, hmem, hset⟩]
      rfl
    case clear =>
      have hno : ¬ (s.drawn x y n).2 = true := by
        rw [collision_drawn hn]
        rintro ⟨r, c, hmem, hset⟩
        obtain ⟨row, col, hrow, hcol, ⟨hr, hc⟩, hbit⟩ := mem_pixels.mp hmem
        rw [hnone r c row col hrow hcol hr hc hbit] at hset
        cases hset
      rw [readV_vf_afterDraw, Bool.eq_false_of_not_eq_true hno]
      rfl
  case faults =>
    rw [← encode_of_decode hdecode]
    exact guardBlock_of_out hlen hout

theorem bitByte_eq_one_iff (f : Bool) : bitByte f = 1#8 ↔ f = true := by cases f <;> decide

/-- A draw leaves the sprite and, unless one is VF, the coordinates (C2). -/
theorem pixels_afterDraw {x y : Reg} (hx : x ≠ vf) (hy : y ≠ vf) (s : State) (n : Nat) :
    (s.afterDraw x y n).pixels x y n = s.pixels x y n := by
  have hv (r : Reg) (hr : r ≠ vf) : (s.afterDraw x y n).readV r = s.readV r :=
    (readV_writeV _ _ _ _).trans (if_neg hr)
  have hbytes : (s.afterDraw x y n).bytesFrom (s.indexed 0) n = s.bytesFrom (s.indexed 0) n :=
    bytesFrom_congr (s := s) (t := s.afterDraw x y n) (fun _ => rfl) _ _
  have hi : (s.afterDraw x y n).indexed 0 = s.indexed 0 := rfl
  rw [State.pixels, hv x hx, hv y hy, hi, hbytes, ← State.pixels]

/-- Settles O45: the second draw flips the same cells, so it turns off exactly those that the first turned on. -/
theorem drawingTwiceRestoresDisplay : Obligations.DrawingTwiceRestoresDisplay := by
  intro x y n s t hx hy h
  have hn : n.val ≤ 32 := by omega
  obtain ⟨hin, rfl⟩ : (n.val = 0 ∨ s.i.toNat + n.val ≤ 0x1000) ∧ t = s.afterDraw x y n.val := guardBlock_eq_next h
  have hpixels := pixels_afterDraw hx hy s n.val
  have hcell (r : Fin 32) (c : Fin 64) : cellAt (s.afterDraw x y n.val).fb r c =
      Bool.xor (cellAt s.fb r c) (decide ((r, c) ∈ s.pixels x y n)) := cellAt_drawn hn r c
  refine ⟨_, exec_drw_of_in x y hin, fun r c => ?cells, ?collision⟩
  case cells =>
    refine (cellAt_drawn hn r c).trans ?_
    rw [hpixels, hcell, Bool.xor_assoc, Bool.xor_self, Bool.xor_false]
  case collision =>
    rw [readV_vf_afterDraw, bitByte_eq_one_iff, collision_drawn hn, hpixels]
    refine exists_congr fun r => exists_congr fun c => ?_
    rw [hcell]
    constructor
    · rintro ⟨hmem, hset⟩
      obtain ⟨row, col, hrow, hcol, ⟨hr, hc⟩, hbit⟩ := mem_pixels.mp hmem
      exact ⟨row, col, hrow, hcol, hr, hc, hbit, by simpa [hmem] using hset⟩
    · rintro ⟨row, col, hrow, hcol, hr, hc, hbit, hunset⟩
      have hmem : (r, c) ∈ s.pixels x y n := mem_pixels.mpr ⟨row, col, hrow, hcol, ⟨hr, hc⟩, hbit⟩
      exact ⟨hmem, by simp [hmem, hunset]⟩

end Sys2Proof.Machine
end
